-- ==== Sys2Proof/Word.lean ====
section
/-! DEFINITION. The widths the spec counts in (R8: a byte is 8 bits, a word is 32 bits; R44: a bus address is 17 bits;
R72: a key schedule is 44 words; R12: a block is 16 bytes). -/

namespace Sys2Proof

/-- A byte (R8). -/
abbrev Byte := BitVec 8

/-- A 32-bit word (R8). -/
abbrev Word := BitVec 32

/-- A byte address of the slave port, ADDR_W = 17 bits, relative to BASE (R44, R45). -/
abbrev BusAddr := BitVec 17

/-- The 16-byte input and output unit of AES-128 (R12, R93). -/
abbrev Block := Vector Byte 16

/-- The four address bytes of an IPv4 address, in network order (R106). -/
abbrev V4Bytes := Vector Byte 4

/-- KS, the 44 round-key words (R30, R72; 90_conflicts.md C1: 1408 bits, not 128). -/
abbrev KeySchedule := Vector Word 44

end Sys2Proof
end

