-- ==== Sys2Proof/Config.lean ====
section
/-! DEFINITION. What the implementation fixes and what the spec leaves open (R6, R7, 93_implementation_defined.md).
The opaque constants have no body, so nothing that is proved about the machine can rest on their value.
LATENCY (R189) has no constant: no rule depends on it, and State.turns says after how many host accesses the core moves
(assumptions 3 and 15). -/

namespace Sys2Proof

/-- The two choices for an ECS option whose family is neither 1 nor 2 (R124, D17). -/
inductive EcsUnknownFamily where
  /-- The option is malformed and parsing stops at its header (the default of R7). -/
  | stop
  /-- The option passes through unchanged and uncounted, and parsing goes on behind it. -/
  | skip
  deriving DecidableEq, Repr, Inhabited

namespace Config

/-- KEY_BYTES (R6). -/
def keyBytes : Nat := 16

/-- ECS_CODE (R6): the option code that marks an ECS option. -/
def ecsCode : Nat := 8

/-- BUF_SIZE (R7, D5), in bytes. -/
def bufSize : Nat := 65536

/-- ECS_UNKNOWN_FAMILY (R7, R124; assumption 6): OPEN, so a claim holds under both values. -/
opaque ecsUnknownFamily : EcsUnknownFamily

/-- BASE (R7, R45; assumption 10): the system address of offset 0, left to the platform. -/
opaque base : Nat

/-- The byte an unwritten place of BUF holds (R62, R181, A-12, A-13; assumption 1).
It takes the number of reset events so far and the byte's offset: one draw per byte, stable until the byte is written. -/
opaque bufDraw : Nat → Nat → Byte

/-- The word that a read of DOUT, RDSTAT, ECSCNT or BUF returns while BUSY = 1 (R42, A-8; assumption 2).
It takes State.draws, which every such read advances. -/
opaque busyRead : Nat → Word

/-- The bit that STATUS.KEY_VALID reads as while KEY_LOAD runs (R42, A-9; assumption 2). It takes State.draws. -/
opaque busyKeyValid : Nat → Bool

end Config

end Sys2Proof
end

