-- ==== Sys2Proof/Syntax.lean ====
section
/-! DEFINITION. The command set (R3, R64): one constructor per row of opcode_table.json.
Each constructor carries the LEN field of its command word. The four commands that ignore LEN (R65) carry it too, so that no
bit of a legal command word is lost between the word and the instruction (assumption 9). -/

namespace Sys2Proof

/-- One legal command word, by row of the opcode table (R64). -/
inductive Instr where
  /-- OP 0x0: do nothing (R76). LEN is ignored. -/
  | nop (len : BitVec 16)
  /-- OP 0x1: construct the cipher from the raw key in BUF (R75). LEN is the length of the key buffer in bytes. -/
  | keyLoad (len : BitVec 16)
  /-- OP 0x2: encrypt one block (R98). LEN is ignored. -/
  | encryptBlock (len : BitVec 16)
  /-- OP 0x3: pseudonymise one IPv4 address (R108). LEN is ignored. -/
  | anonV4 (len : BitVec 16)
  /-- OP 0x4: pseudonymise one IPv6 address (R109). LEN is ignored. -/
  | anonV6 (len : BitVec 16)
  /-- OP 0x5: rewrite the ECS addresses of an OPT RDATA in BUF (R129). LEN is the RDATA length in bytes. -/
  | optRewrite (len : BitVec 16)
  deriving DecidableEq, Repr

/-- The LEN field an instruction carries. -/
def Instr.len : Instr → BitVec 16
  | .nop len => len
  | .keyLoad len => len
  | .encryptBlock len => len
  | .anonV4 len => len
  | .anonV6 len => len
  | .optRewrite len => len

/-- The match value of an instruction's row in the opcode map (R64), over the bits of mask 0x0000FFFF. -/
def Instr.rowMatch : Instr → Word
  | .nop _ => 0x00000000
  | .keyLoad _ => 0x00000001
  | .encryptBlock _ => 0x00000002
  | .anonV4 _ => 0x00000003
  | .anonV6 _ => 0x00000004
  | .optRewrite _ => 0x00000005

end Sys2Proof
end

