-- ==== Sys2Proof/WellFormed.lean ====
section
/-! DEFINITION. Which command words and which instructions are legal (R24, R64, R66, R67).
What can be ill-formed on this hardware is the raw command word, and `wordLegal` is its check, one conjunct per way to fail.
An `Instr` carries nothing but a 16-bit LEN, every value of which is legal (R24: 0..65535), so the check of an instruction
refuses none. The host's own syntax (R70, R71) has its check in Sys2Proof/Machine/HostProgram.lean. -/

namespace Sys2Proof

/-- The RSVD field is zero (R24, R66). -/
def rsvdLegal (w : Word) : Bool := w &&& 0x0000FFF0 == 0

/-- OP names one of the six commands (R24, R67). -/
def opLegal (w : Word) : Bool := w &&& 0x0000000F ≤ 0x5

/-- A word that some row of the opcode map matches (R64). -/
def wordLegal (w : Word) : Bool := rsvdLegal w && opLegal w

/-- Every LEN is a legal operand of every command (R24, R65). -/
def Instr.wellFormed : Instr → Bool
  | .nop _ => true
  | .keyLoad _ => true
  | .encryptBlock _ => true
  | .anonV4 _ => true
  | .anonV6 _ => true
  | .optRewrite _ => true

end Sys2Proof
end

