-- ==== Sys2Proof/Decode.lean ====
section
/-! DEFINITION. The command word and the instruction it stands for (R24, R64 to R67), and back. -/

namespace Sys2Proof

/-- CUR.OP = CUR[3:0] (R24, R31). -/
def opField (w : Word) : BitVec 4 := w.extractLsb' 0 4

/-- CUR.RSVD = CUR[15:4] (R24, R31). -/
def rsvdField (w : Word) : BitVec 12 := w.extractLsb' 4 12

/-- CUR.LEN = CUR[31:16] (R24, R31). -/
def lenField (w : Word) : BitVec 16 := w.extractLsb' 16 16

/-- Why a command word names no command. Both give ILLEGAL_OP (R154). -/
inductive Reject where
  /-- RSVD is not zero, whatever OP is (R66). -/
  | reservedField
  /-- OP is one of 0x6..0xF, with RSVD = 0 (R67). -/
  | reservedOpcode
  deriving DecidableEq, Repr

/-- The row of the opcode map that an OP value selects (R64), or none for the reserved values (R67). -/
def instrOfOp (op : BitVec 4) (len : BitVec 16) : Option Instr :=
  match op.toNat with
  | 0 => some (.nop len)
  | 1 => some (.keyLoad len)
  | 2 => some (.encryptBlock len)
  | 3 => some (.anonV4 len)
  | 4 => some (.anonV6 len)
  | 5 => some (.optRewrite len)
  | _ => none

/-- Decoding of a command word, in the order of R37 and R66: RSVD first, then OP. -/
def decode (w : Word) : Except Reject Instr :=
  if rsvdField w ≠ 0 then .error .reservedField
  else
    match instrOfOp (opField w) (lenField w) with
    | some i => .ok i
    | none => .error .reservedOpcode

/-- The OP value of an instruction's row (R64). -/
def opOf : Instr → BitVec 4
  | .nop _ => 0x0
  | .keyLoad _ => 0x1
  | .encryptBlock _ => 0x2
  | .anonV4 _ => 0x3
  | .anonV6 _ => 0x4
  | .optRewrite _ => 0x5

/-- The command word of an instruction: LEN, twelve zero bits, OP (R64). -/
def encode (i : Instr) : Word := i.len ++ (0 : BitVec 12) ++ opOf i

/-- What the decoder reads from an instruction numbered as the opcode table numbers it: one 32-bit word, bit 0 its least
significant bit, every bit from `nbits` up being zero. -/
def decodeTableWord (nbits w : Nat) : Option Instr :=
  match decode (BitVec.ofNat 32 (w % 2 ^ nbits)) with
  | .ok i => some i
  | .error _ => none

end Sys2Proof
end

