-- ==== Sys2Proof/Machine/State.lean ====
section
/-! DEFINITION. The state of the block (R35), the traffic on its slave port, and the state right after reset (R40). -/

namespace Sys2Proof.Machine

/-- One host access of the slave port (R44): a 32-bit word at a byte address. -/
inductive BusAccess where
  | read (addr : BusAddr)
  | write (addr : BusAddr) (value : Word)
  deriving DecidableEq, Repr

/-- The one response every access gets (R44). -/
inductive BusResponse where
  /-- OKAY to a write. -/
  | okay
  /-- OKAY to a read, with its data. -/
  | okayData (data : Word)
  /-- ERROR: a misaligned access or a reserved offset (R155). No state changes and the host may go on. -/
  | error
  deriving DecidableEq, Repr

/-- One step of one agent (R20), or the RESET input (R180). -/
inductive Turn where
  /-- The host makes one bus access. -/
  | host (access : BusAccess)
  /-- The core makes its step, if it has one (R37). -/
  | core
  /-- A reset event. -/
  | reset
  deriving DecidableEq, Repr

/-- The error codes of STATUS.ERR (R151). -/
inductive ErrCode where
  | none
  | invalidKeyLength
  | noKey
  | illegalOp
  deriving DecidableEq, Repr

/-- The bytes of BUF written since the last reset, as (offset, byte) pairs with rising offsets.
An offset that is not listed has not been written and reads as its draw, Config.bufDraw (R62; assumption 1). -/
abbrev Memory := List Host.Cell

/-- The whole state of the block, as R35 lists it, and behind it four fields of the model's own. -/
structure State where
  /-- CUR, the command word latched at acceptance (R31). -/
  cur : Word
  /-- STATUS.BUSY (R25). -/
  busy : Bool
  /-- STATUS.KEY_VALID (R25, R30). -/
  keyValid : Bool
  /-- STATUS.WERR (R25, R157). -/
  werr : Bool
  /-- STATUS.ERR (R25, R151). -/
  err : BitVec 4
  /-- KS, the key schedule (R30). -/
  ks : KeySchedule
  /-- DIN_bytes (R26). -/
  din : Block
  /-- DOUT_bytes (R26). -/
  dout : Block
  /-- BUF (R27). -/
  buf : Memory
  /-- RDSTAT.STOP_OFF (R28). -/
  stopOff : BitVec 16
  /-- RDSTAT.MALFORMED (R28). -/
  malformed : Bool
  /-- ECSCNT.COUNT (R29). -/
  count : BitVec 16
  /-- The model's own: the response the latest host access got (R44; assumption 5). -/
  response : Option BusResponse
  /-- The model's own: what the outside world does next and when the core moves (R20, R38; assumption 3). -/
  turns : List Turn
  /-- The model's own: how many draws reads have taken while BUSY = 1 (R42; assumption 2). -/
  draws : Nat
  /-- The model's own: how many reset events there were, so that each leaves BUF with fresh draws (R181; assumption 1). -/
  resets : Nat
  deriving DecidableEq, Repr

/-- The ways a step can stop the machine: none. The core never halts (R150), and no behaviour the spec leaves open is
`stuck` (93_implementation_defined.md, Part A). A bus ERROR is a response after which the machine goes on (R155). -/
inductive Fault where
  deriving DecidableEq, Repr

/-- The ways a step can refuse to give an instruction a meaning. -/
inductive Refusal where
  /-- Raised by an arm of exec whose instruction has no meaning yet, under its mnemonic. Safe: the run ends there.
  No arm raises it in this model. -/
  | notModelled (mnemonic : String)
  deriving DecidableEq, Repr

/-- Sixteen zero bytes (R40). -/
def zeroBlock : Block := Vector.replicate 16 0

/-- Forty-four zero words (R40, R75). -/
def zeroSchedule : KeySchedule := Vector.replicate 44 0

/-- The block right after reset: the values of R40 and R180. BUF lists nothing, so each of its bytes is a draw (R181).
The last four fields are the model's own: no response yet, an idle outside world, no draw taken, no reset event behind the
first (assumption 4). -/
def State.reset : State where
  cur := 0x00000000
  busy := false
  keyValid := false
  werr := false
  err := 0
  ks := zeroSchedule
  din := zeroBlock
  dout := zeroBlock
  buf := []
  stopOff := 0
  malformed := false
  count := 0
  response := none
  turns := []
  draws := 0
  resets := 0

end Sys2Proof.Machine
end

