-- ==== Sys2Proof/Machine/Ops.lean ====
section
/-! DEFINITION. The named operations every meaning is written over: byte order (R10, R52), the memory BUF (R27, R50, R62),
acceptance and completion of a command (R36, R38), ending a command with an error (R10, R150), and a reset event (R180).
There is no trap to take and none to return from (R156, R160): `State.raise` is what stands in their place. -/

namespace Sys2Proof.Machine

/-! ### Byte order -/

/-- Byte `m` of a word, big-endian: bits 31 - 8m .. 24 - 8m, for m = 0..3 (R52). -/
def byteOfWord (w : Word) (m : Nat) : Byte := w.extractLsb' (24 - 8 * m) 8

/-- The word whose bytes 0..3 are the four given (R50, R52, R72). -/
def wordOfBytes (b0 b1 b2 b3 : Byte) : Word := b0 ++ b1 ++ b2 ++ b3

/-- The 16-bit big-endian field at offset `i` of a byte sequence, given as its read function (R10, R53). -/
def be16 (rd : Nat → Byte) (i : Nat) : BitVec 16 := rd i ++ rd (i + 1)

/-- ceil8(n) = (n + 7) >> 3 (R8). -/
def ceil8 (n : Nat) : Nat := (n + 7) >>> 3

/-- The bytes `i .. i+n)` of a byte sequence given as its read function (R8). -/
def slice (rd : Nat → Byte) (i n : Nat) : List Byte := (List.range n).map fun k => rd (i + k)

/-- Word `k` of a 16-byte register: bytes 4k .. 4k+3 (R26, R52). -/
def blockWord (b : Block) (k : Fin 4) : Word :=
  wordOfBytes b[4 * k.val] b[4 * k.val + 1] b[4 * k.val + 2] b[4 * k.val + 3]

/-- A 16-byte register with its word `k` replaced (R26, R49, R52). -/
def setBlockWord (b : Block) (k : Fin 4) (w : Word) : Block :=
  Vector.ofFn fun i : Fin 16 => if i.val / 4 = k.val then byteOfWord w (i.val % 4) else b[i]

/-! ### The memory BUF -/

/-- The byte written at an offset since the last reset, if any. -/
def Memory.lookup : Memory → Nat → Option Byte
  | [], _ => none
  | (b, x) :: m, a => if a = b then some x else lookup m a

/-- Writing one byte. The offsets stay in rising order, each listed at most once. -/
def Memory.store : Memory → Nat → Byte → Memory
  | [], a, v => [(a, v)]
  | (b, x) :: m, a, v =>
    if a < b then (a, v) :: (b, x) :: m
    else if a = b then (a, v) :: m
    else (b, x) :: store m a v

/-- Every listed offset is at least `low`, and the offsets rise strictly and stay below BUF_SIZE. -/
def Memory.wfFrom : Nat → Memory → Bool
  | _, [] => true
  | low, (a, _) :: m => decide (low ≤ a) && decide (a < Config.bufSize) && wfFrom (a + 1) m

/-- The canonical form of BUF: strictly rising offsets, all inside BUF (R27). -/
def Memory.wf (m : Memory) : Bool := Memory.wfFrom 0 m

/-- BUF[i] (R10, R27): the byte last written there since reset, else the draw of that byte (R62). -/
def State.bufByte (s : State) (i : Nat) : Byte := (s.buf.lookup i).getD (Config.bufDraw s.resets i)

/-- BUF[i] <- v (R10). -/
def State.setBufByte (s : State) (i : Nat) (v : Byte) : State := { s with buf := s.buf.store i v }

/-- BUF[i .. i + len) <- bytes (R129). -/
def State.setBufBytes (s : State) (i : Nat) : List Byte → State
  | [] => s
  | v :: vs => setBufBytes (s.setBufByte i v) (i + 1) vs

/-- BUF[i .. i+n) (R27). -/
def State.bufBytes (s : State) (i n : Nat) : List Byte := slice s.bufByte i n

/-- Word `j` of BUF (R50). -/
def State.bufWord (s : State) (j : Nat) : Word :=
  wordOfBytes (s.bufByte (4 * j)) (s.bufByte (4 * j + 1)) (s.bufByte (4 * j + 2)) (s.bufByte (4 * j + 3))

/-- Writing word `j` of BUF (R50). -/
def State.setBufWord (s : State) (j : Nat) (w : Word) : State :=
  s.setBufBytes (4 * j) [byteOfWord w 0, byteOfWord w 1, byteOfWord w 2, byteOfWord w 3]

/-! ### The life of a command -/

/-- The number of an error code (R151). -/
def ErrCode.code : ErrCode → BitVec 4
  | .none => 0x0
  | .invalidKeyLength => 0x1
  | .noKey => 0x2
  | .illegalOp => 0x3

/-- Acceptance of a command word while BUSY = 0 (R36): it checks nothing about the word. -/
def State.accept (s : State) (v : Word) : State := { s with cur := v, err := 0, werr := false, busy := true }

/-- `complete`: the command ends without error (R10, R38). -/
def State.complete (s : State) : State := { s with busy := false, err := 0 }

/-- `raise Err(code)`: the command ends with an error code (R10, R38, R150). Nothing is vectored and no state is saved. -/
def State.raise (s : State) (e : ErrCode) : State := { s with busy := false, err := e.code }

/-- The guard of the four key-using commands (R37, R153): with no key they raise NO_KEY, else they have their effect and
complete. -/
def State.withKey (s : State) (effect : State → State) : State :=
  if s.keyValid then (effect s).complete else s.raise .noKey

/-- A reset event (R180, R181): every piece of state to its value of R40, BUF to fresh draws.
A command in flight is abandoned. What the outside world does next is not the block's to reset (assumption 12). -/
def State.resetEvent (s : State) : State :=
  { State.reset with turns := s.turns, draws := s.draws, resets := s.resets + 1 }

end Sys2Proof.Machine
end

