-- ==== Sys2Proof/Machine/Flags.lean ====
section
/-! DEFINITION. The views of the state that the host reads as status words (R25, R28, R29, R32, R35), every bit of them.
The block has no condition codes: the flags are BUSY, KEY_VALID, WERR and MALFORMED. -/

namespace Sys2Proof.Machine

/-- STATUS with a given KEY_VALID bit (R25): ERR in 7:4, WERR in 2, KEY_VALID in 1, BUSY in 0, zero elsewhere. -/
def State.statusWith (s : State) (keyValid : Bool) : Word :=
  (0 : BitVec 24) ++ s.err ++ (0 : BitVec 1) ++ BitVec.ofBool s.werr ++ BitVec.ofBool keyValid ++ BitVec.ofBool s.busy

/-- STATUS (R25). -/
def State.status (s : State) : Word := s.statusWith s.keyValid

/-- RDSTAT (R28): MALFORMED in 16, STOP_OFF in 15:0, zero elsewhere. -/
def State.rdstat (s : State) : Word := (0 : BitVec 15) ++ BitVec.ofBool s.malformed ++ s.stopOff

/-- ECSCNT (R29): COUNT in 15:0, zero elsewhere. -/
def State.ecscnt (s : State) : Word := (0 : BitVec 16) ++ s.count

/-- The running command is KEY_LOAD (R42): CUR holds a word of that row, and BUSY = 1
(assumption 14). -/
def State.keyLoadRunning (s : State) : Bool :=
  s.busy &&
    match decode s.cur with
    | .ok (.keyLoad _) => true
    | _ => false

end Sys2Proof.Machine
end

