-- ==== Sys2Proof/Machine/Bus.lean ====
section
/-! DEFINITION. The slave port: the address map (R23, R45), the responses (R44, R46, R47), reads (R42, R48, R50) and writes
(R41, R49, R50, R157). -/

namespace Sys2Proof.Machine

/-- What an address of the map names (R23, R45). -/
inductive Target where
  | cmd
  | status
  | rdstat
  | ecscnt
  | din (k : Fin 4)
  | dout (k : Fin 4)
  | bufWord (j : Fin 16384)
  deriving DecidableEq, Repr

/-- Why an address gets the ERROR response (R155). -/
inductive BusError where
  /-- addr[1:0] is not zero (R46). -/
  | misaligned
  /-- An aligned address in 0x00030..0x0FFFF (R47). -/
  | reserved
  deriving DecidableEq, Repr

/-- The register word at an index of the register window, 0..11 (R23). -/
def registerAt : Nat → Option Target
  | 0 => some .cmd
  | 1 => some .status
  | 2 => some .rdstat
  | 3 => some .ecscnt
  | 4 => some (.din 0)
  | 5 => some (.din 1)
  | 6 => some (.din 2)
  | 7 => some (.din 3)
  | 8 => some (.dout 0)
  | 9 => some (.dout 1)
  | 10 => some (.dout 2)
  | 11 => some (.dout 3)
  | _ => none

/-- The address map (R45), checked in the order of R158: misalignment, then reserved offsets. -/
def decodeAddr (addr : BusAddr) : Except BusError Target :=
  let a := addr.toNat
  if a % 4 ≠ 0 then .error .misaligned
  else if 0x10000 ≤ a then .ok (.bufWord (Fin.ofNat 16384 ((a - 0x10000) / 4)))
  else
    match registerAt (a / 4) with
    | some t => .ok t
    | none => .error .reserved

/-- The byte address of a target (R23). -/
def Target.addr : Target → BusAddr
  | .cmd => 0x00000
  | .status => 0x00004
  | .rdstat => 0x00008
  | .ecscnt => 0x0000C
  | .din k => BitVec.ofNat 17 (0x00010 + 4 * k.val)
  | .dout k => BitVec.ofNat 17 (0x00020 + 4 * k.val)
  | .bufWord j => BitVec.ofNat 17 (0x10000 + 4 * j.val)

/-- The system address of an address of the block, and the block's address at a system address, if it lies in the
block's window (R45; assumption 10). -/
def systemAddr (addr : BusAddr) : Nat := Config.base + addr.toNat

def blockAddr (system : Nat) : Option BusAddr :=
  if Config.base ≤ system ∧ system < Config.base + 2 ^ 17 then some (BitVec.ofNat 17 (system - Config.base)) else none

/-! ### Reads -/

/-- The value of a target with no draw in it: exact whenever BUSY = 0 (R48, R50), and for CMD and DIN always (R42). -/
def State.exactRead (s : State) : Target → Word
  | .cmd => 0x00000000
  | .status => s.status
  | .rdstat => s.rdstat
  | .ecscnt => s.ecscnt
  | .din k => blockWord s.din k
  | .dout k => blockWord s.dout k
  | .bufWord j => s.bufWord j.val

/-- Whether a read of a target returns a draw now (R42). -/
def State.readsDraw (s : State) : Target → Bool
  | .cmd => false
  | .status => s.keyLoadRunning
  | .rdstat => s.busy
  | .ecscnt => s.busy
  | .din _ => false
  | .dout _ => s.busy
  | .bufWord _ => s.busy

/-- The value of a read that returns a draw (R42): any word, but for STATUS, of which only KEY_VALID is drawn. -/
def State.drawnRead (s : State) : Target → Word
  | .status => s.statusWith (Config.busyKeyValid s.draws)
  | .cmd | .rdstat | .ecscnt | .din _ | .dout _ | .bufWord _ => Config.busyRead s.draws

/-- MemRead of a target (R42, R48): its data, and a state in which nothing changed but the model's draw counter. -/
def State.readTarget (s : State) (t : Target) : Word × State :=
  if s.readsDraw t then (s.drawnRead t, { s with draws := s.draws + 1 }) else (s.exactRead t, s)

/-! ### Writes -/

/-- A write that is dropped because BUSY = 1 (R157). -/
def State.dropWrite (s : State) : State := { s with werr := true }

/-- MemWrite of a target (R36, R41, R49, R50, R157). A write to a read-only register is ignored and never sets WERR. -/
def State.writeTarget (s : State) (v : Word) : Target → State
  | .cmd => if s.busy then s.dropWrite else s.accept v
  | .din k => if s.busy then s.dropWrite else { s with din := setBlockWord s.din k v }
  | .bufWord j => if s.busy then s.dropWrite else s.setBufWord j.val v
  | .status | .rdstat | .ecscnt | .dout _ => s

/-! ### One access -/

/-- The response to an access is on the port (R44). -/
def State.respond (s : State) (r : BusResponse) : State := { s with response := some r }

/-- One host step (R44): the access takes effect and gets its response; ERROR changes nothing (R46, R47, R155). -/
def State.hostAccess (s : State) : BusAccess → State
  | .read addr =>
    match decodeAddr addr with
    | .error _ => s.respond .error
    | .ok t => (s.readTarget t).2.respond (.okayData (s.readTarget t).1)
  | .write addr v =>
    match decodeAddr addr with
    | .error _ => s.respond .error
    | .ok t => (s.writeTarget v t).respond .okay

end Sys2Proof.Machine
end

