-- ==== Sys2Proof/Machine/Aes.lean ====
section
/-! DEFINITION. AES-128: key expansion (R72 to R74) and the block cipher (R91 to R97), as the spec's rules give them (R2). -/

namespace Sys2Proof.Machine

/-! ### The S-box (R91) -/

/-- Rows 0.. of the S-box table of R91. -/
def sboxRows0 : List (List Byte) :=
  [[0x63, 0x7c, 0x77, 0x7b, 0xf2, 0x6b, 0x6f, 0xc5, 0x30, 0x01, 0x67, 0x2b, 0xfe, 0xd7, 0xab, 0x76],
   [0xca, 0x82, 0xc9, 0x7d, 0xfa, 0x59, 0x47, 0xf0, 0xad, 0xd4, 0xa2, 0xaf, 0x9c, 0xa4, 0x72, 0xc0],
   [0xb7, 0xfd, 0x93, 0x26, 0x36, 0x3f, 0xf7, 0xcc, 0x34, 0xa5, 0xe5, 0xf1, 0x71, 0xd8, 0x31, 0x15],
   [0x04, 0xc7, 0x23, 0xc3, 0x18, 0x96, 0x05, 0x9a, 0x07, 0x12, 0x80, 0xe2, 0xeb, 0x27, 0xb2, 0x75]]

/-- Rows 4.. of the S-box table of R91. -/
def sboxRows4 : List (List Byte) :=
  [[0x09, 0x83, 0x2c, 0x1a, 0x1b, 0x6e, 0x5a, 0xa0, 0x52, 0x3b, 0xd6, 0xb3, 0x29, 0xe3, 0x2f, 0x84],
   [0x53, 0xd1, 0x00, 0xed, 0x20, 0xfc, 0xb1, 0x5b, 0x6a, 0xcb, 0xbe, 0x39, 0x4a, 0x4c, 0x58, 0xcf],
   [0xd0, 0xef, 0xaa, 0xfb, 0x43, 0x4d, 0x33, 0x85, 0x45, 0xf9, 0x02, 0x7f, 0x50, 0x3c, 0x9f, 0xa8],
   [0x51, 0xa3, 0x40, 0x8f, 0x92, 0x9d, 0x38, 0xf5, 0xbc, 0xb6, 0xda, 0x21, 0x10, 0xff, 0xf3, 0xd2]]

/-- Rows 8.. of the S-box table of R91. -/
def sboxRows8 : List (List Byte) :=
  [[0xcd, 0x0c, 0x13, 0xec, 0x5f, 0x97, 0x44, 0x17, 0xc4, 0xa7, 0x7e, 0x3d, 0x64, 0x5d, 0x19, 0x73],
   [0x60, 0x81, 0x4f, 0xdc, 0x22, 0x2a, 0x90, 0x88, 0x46, 0xee, 0xb8, 0x14, 0xde, 0x5e, 0x0b, 0xdb],
   [0xe0, 0x32, 0x3a, 0x0a, 0x49, 0x06, 0x24, 0x5c, 0xc2, 0xd3, 0xac, 0x62, 0x91, 0x95, 0xe4, 0x79],
   [0xe7, 0xc8, 0x37, 0x6d, 0x8d, 0xd5, 0x4e, 0xa9, 0x6c, 0x56, 0xf4, 0xea, 0x65, 0x7a, 0xae, 0x08]]

/-- Rows c.. of the S-box table of R91. -/
def sboxRowsC : List (List Byte) :=
  [[0xba, 0x78, 0x25, 0x2e, 0x1c, 0xa6, 0xb4, 0xc6, 0xe8, 0xdd, 0x74, 0x1f, 0x4b, 0xbd, 0x8b, 0x8a],
   [0x70, 0x3e, 0xb5, 0x66, 0x48, 0x03, 0xf6, 0x0e, 0x61, 0x35, 0x57, 0xb9, 0x86, 0xc1, 0x1d, 0x9e],
   [0xe1, 0xf8, 0x98, 0x11, 0x69, 0xd9, 0x8e, 0x94, 0x9b, 0x1e, 0x87, 0xe9, 0xce, 0x55, 0x28, 0xdf],
   [0x8c, 0xa1, 0x89, 0x0d, 0xbf, 0xe6, 0x42, 0x68, 0x41, 0x99, 0x2d, 0x0f, 0xb0, 0x54, 0xbb, 0x16]]

/-- The S-box table of R91, row `hi`, column `lo`. -/
def sboxRows : List (List Byte) := sboxRows0 ++ sboxRows4 ++ sboxRows8 ++ sboxRowsC

/-- S[x], for x = 16*hi + lo (R91). -/
def sbox (x : Byte) : Byte := (sboxRows.getD (x.toNat / 16) []).getD (x.toNat % 16) 0

/-! ### GF(2^8) (R96) -/

/-- xtime(a): multiplication by 2 modulo 0x11B (R96). -/
def xtime (a : Byte) : Byte := (a <<< 1) ^^^ (if a.getLsbD 7 then 0x1B else 0x00)

/-- gmul(a, 2) (R96). -/
def gmul2 (a : Byte) : Byte := xtime a

/-- gmul(a, 3) (R96). -/
def gmul3 (a : Byte) : Byte := xtime a ^^^ a

/-- The product of GF(2^8) modulo 0x11B, from the low `n` bits of the second factor (R96). -/
def gmulBits (a b : Byte) : Nat → Byte
  | 0 => 0
  | n + 1 => gmulBits a b n ^^^ (if b.getLsbD n then Nat.iterate xtime n a else 0)

/-- gmul(a, b) (R96): the sum of the doublings of `a` that the bits of `b` select. -/
def gmul (a b : Byte) : Byte := gmulBits a b 8

/-- inv(x) of R91: 0 for 0, else the inverse of x in GF(2^8), which is x to the power 254 = 2 + 4 + ... + 128. -/
def gfInv (x : Byte) : Byte :=
  let x2 := gmul x x
  let x4 := gmul x2 x2
  let x8 := gmul x4 x4
  let x16 := gmul x8 x8
  let x32 := gmul x16 x16
  let x64 := gmul x32 x32
  let x128 := gmul x64 x64
  gmul x2 (gmul x4 (gmul x8 (gmul x16 (gmul x32 (gmul x64 x128)))))

/-- The affine map A(b) of R91. -/
def affine (b : Byte) : Byte :=
  b ^^^ b.rotateLeft 1 ^^^ b.rotateLeft 2 ^^^ b.rotateLeft 3 ^^^ b.rotateLeft 4 ^^^ 0x63

/-! ### The steps of a round: byte r + 4c of a block is the state's row r, column c (R93) -/

/-- SubBytes (R94). -/
def subBytes (b : Block) : Block := b.map sbox

/-- ShiftRows (R95): s'[r][c] = s[r][(c + r) mod 4]. -/
def shiftRows (b : Block) : Block :=
  Vector.ofFn fun i : Fin 16 => b[i.val % 4 + 4 * ((i.val / 4 + i.val % 4) % 4)]

/-- Row `r` of the new column that MixColumns makes of the column a0..a3 (R96). -/
def mixRow (a0 a1 a2 a3 : Byte) : Nat → Byte
  | 0 => gmul2 a0 ^^^ gmul3 a1 ^^^ a2 ^^^ a3
  | 1 => a0 ^^^ gmul2 a1 ^^^ gmul3 a2 ^^^ a3
  | 2 => a0 ^^^ a1 ^^^ gmul2 a2 ^^^ gmul3 a3
  | _ => gmul3 a0 ^^^ a1 ^^^ a2 ^^^ gmul2 a3

/-- MixColumns (R96). -/
def mixColumns (b : Block) : Block :=
  Vector.ofFn fun i : Fin 16 =>
    mixRow b[4 * (i.val / 4)] b[4 * (i.val / 4) + 1] b[4 * (i.val / 4) + 2] b[4 * (i.val / 4) + 3] (i.val % 4)

/-- AddRoundKey(r) (R97): column c is XORed with the word w[4r + c], its most significant byte into row 0. -/
def addRoundKey (ks : KeySchedule) (r : Fin 11) (b : Block) : Block :=
  Vector.ofFn fun i : Fin 16 => b[i] ^^^ byteOfWord ks[4 * r.val + i.val / 4] (i.val % 4)

/-! ### The cipher (R92) -/

/-- One of the rounds 1..9 (R92). -/
def middleRound (ks : KeySchedule) (b : Block) (r : Fin 11) : Block :=
  addRoundKey ks r (mixColumns (shiftRows (subBytes b)))

/-- Round 10, which has no MixColumns (R92). -/
def lastRound (ks : KeySchedule) (b : Block) : Block := addRoundKey ks 10 (shiftRows (subBytes b))

/-- AES128_Encrypt(ks, in) (R92). -/
def aesEncrypt (ks : KeySchedule) (input : Block) : Block :=
  lastRound ks ([1, 2, 3, 4, 5, 6, 7, 8, 9].foldl (middleRound ks) (addRoundKey ks 0 input))

/-! ### Key expansion (R72 to R74) -/

/-- RotWord (R73). -/
def rotWord (w : Word) : Word :=
  wordOfBytes (byteOfWord w 1) (byteOfWord w 2) (byteOfWord w 3) (byteOfWord w 0)

/-- SubWord (R73). -/
def subWord (w : Word) : Word :=
  wordOfBytes (sbox (byteOfWord w 0)) (sbox (byteOfWord w 1)) (sbox (byteOfWord w 2)) (sbox (byteOfWord w 3))

/-- Rcon[1..10] (R74). Other indexes do not occur. -/
def rcon (j : Nat) : Byte :=
  [0x00, 0x01, 0x02, 0x04, 0x08, 0x10, 0x20, 0x40, 0x80, 0x1B, 0x36].getD j 0

/-- w[i] for i in 4..43, from w[0..i) (R72). -/
def expandWord (ws : List Word) (i : Nat) : Word :=
  let t := ws.getD (i - 1) 0
  let t := if i % 4 = 0 then subWord (rotWord t) ^^^ wordOfBytes (rcon (i / 4)) 0x00 0x00 0x00 else t
  ws.getD (i - 4) 0 ^^^ t

/-- The list w[0..44) of R72, built from the front. -/
def expandList (k : Block) : List Word :=
  (List.range' 4 40).foldl (fun ws i => ws ++ [expandWord ws i])
    [blockWord k 0, blockWord k 1, blockWord k 2, blockWord k 3]

/-- AES128_KeyExpand(k) (R72). -/
def keyExpand (k : Block) : KeySchedule := Vector.ofFn fun i : Fin 44 => (expandList k).getD i.val 0

end Sys2Proof.Machine
end

