-- ==== Sys2Proof/Machine/Operands.lean ====
section
/-! DEFINITION. The operand forms. No command names a register (R21): each reads and writes fixed places. -/

namespace Sys2Proof.Machine

/-- LEN as a byte count: 16 bits, unsigned, not scaled (R65). -/
def lenOperand (len : BitVec 16) : Nat := len.toNat

/-- The address operand of ANON_V4: DIN_bytes[0..4) (R108). -/
def State.dinV4 (s : State) : V4Bytes := #v[s.din[0], s.din[1], s.din[2], s.din[3]]

/-- The key operand of KEY_LOAD: BUF[0..16) (R75). -/
def State.keyOperand (s : State) : Block := Vector.ofFn fun i : Fin 16 => s.bufByte i.val

/-- The RDATA operand of OPT_REWRITE: BUF[0..L) (R129). -/
def State.rdata (s : State) (len : BitVec 16) : List Byte := s.bufBytes 0 (lenOperand len)

/-- DOUT_bytes[0..16) <- b (R98, R109). -/
def State.setDout (s : State) (b : Block) : State := { s with dout := b }

/-- DOUT_bytes[0..4) <- a; DOUT_bytes[4..16) <- zeros(12) (R108). -/
def State.setDoutV4 (s : State) (a : V4Bytes) : State :=
  s.setDout #v[a[0], a[1], a[2], a[3], 0, 0, 0, 0, 0, 0, 0, 0, 0, 0, 0, 0]

end Sys2Proof.Machine
end

