-- ==== Sys2Proof/Machine/Address.lean ====
section
/-! DEFINITION. Address pseudonymisation: the functions of R106 and R107 and the meanings of ANON_V4 and ANON_V6. -/

namespace Sys2Proof.Machine

/-- The block a ++ a ++ a ++ a: blk[i] = a[i mod 4] (R106). -/
def repeatV4 (a : V4Bytes) : Block := Vector.ofFn fun i : Fin 16 => a[i.val % 4]

/-- AnonV4(ks, a) (R106): the first four bytes of the encryption of the address repeated four times. -/
def anonV4 (ks : KeySchedule) (a : V4Bytes) : V4Bytes :=
  let out := aesEncrypt ks (repeatV4 a)
  #v[out[0], out[1], out[2], out[3]]

/-- AnonV6(ks, a) (R107). -/
def anonV6 (ks : KeySchedule) (a : Block) : Block := aesEncrypt ks a

/-- ANON_V4 (R108). -/
def execAnonV4 (s : State) : Host.Outcome State Fault Refusal :=
  .next (s.withKey fun t => t.setDoutV4 (anonV4 t.ks t.dinV4))

/-- ANON_V6 (R109). -/
def execAnonV6 (s : State) : Host.Outcome State Fault Refusal :=
  .next (s.withKey fun t => t.setDout (anonV6 t.ks t.din))

end Sys2Proof.Machine
end

