-- ==== Sys2Proof/Machine/Cipher.lean ====
section
/-! DEFINITION. The meaning of ENCRYPT_BLOCK (R98). -/

namespace Sys2Proof.Machine

/-- ENCRYPT_BLOCK (R98). -/
def execEncryptBlock (s : State) : Host.Outcome State Fault Refusal :=
  .next (s.withKey fun t => t.setDout (aesEncrypt t.ks t.din))

end Sys2Proof.Machine
end

