-- ==== Sys2Proof/Machine/Key.lean ====
section
/-! DEFINITION. The meanings of NOP and KEY_LOAD (R75, R76). -/

namespace Sys2Proof.Machine

/-- NOP (R76): it completes. -/
def execNop (s : State) : Host.Outcome State Fault Refusal := .next s.complete

/-- The effect of a KEY_LOAD whose LEN is not 16 (R75, R152): the previous key is lost. -/
def State.dropKey (s : State) : State := { s with keyValid := false, ks := zeroSchedule }

/-- The effect of a KEY_LOAD whose LEN is 16 (R75). -/
def State.installKey (s : State) (k : Block) : State := { s with ks := keyExpand k, keyValid := true }

/-- KEY_LOAD (R75, R152). It needs no key, so it never raises NO_KEY. -/
def execKeyLoad (len : BitVec 16) (s : State) : Host.Outcome State Fault Refusal :=
  if lenOperand len ≠ Config.keyBytes then .next (s.dropKey.raise .invalidKeyLength)
  else .next (s.installKey s.keyOperand).complete

end Sys2Proof.Machine
end

