-- ==== Sys2Proof/Machine/OptRdata.lean ====
section
/-! DEFINITION. The parse of OPT RDATA and the rewrite of its ECS addresses (R116 to R128), and the meaning of OPT_REWRITE
(R129). The parse looks at the bytes alone, never at the key. -/

namespace Sys2Proof.Machine

/-- The address families of ECS (R120). -/
inductive Family where
  | v4
  | v6
  deriving DecidableEq, Repr

/-- The family of an ECS family field: 1 or 2, else none (R120, R124). -/
def familyOf (field : BitVec 16) : Option Family :=
  if field = 1 then some .v4 else if field = 2 then some .v6 else none

/-- wd: the width of a family's address in bytes (R120). -/
def Family.width : Family → Nat
  | .v4 => 4
  | .v6 => 16

/-- The address function of a family on a byte string of its width (R120, R121). -/
def Family.anonymise (ks : KeySchedule) (a : List Byte) : Family → List Byte
  | .v4 => (anonV4 ks (Vector.ofFn fun i : Fin 4 => a.getD i.val 0)).toList
  | .v6 => (anonV6 ks (Vector.ofFn fun i : Fin 16 => a.getD i.val 0)).toList

/-- What the parser finds at a cursor short of the end. -/
inductive OptionShape where
  /-- Parsing stops here (R122, R123). -/
  | malformed
  /-- An option that is left alone (R118, and R124 under SKIP), with its olen. -/
  | passThrough (olen : Nat)
  /-- A well-formed ECS option (R119 to R121): its family, the number nb of address bytes, and its olen. -/
  | ecs (fam : Family) (nb olen : Nat)
  deriving DecidableEq, Repr

/-- An option of code 8 at cursor `p`, whose data of `olen` bytes lies inside the RDATA (R119, R120, R124): checks (c) to
(f) of R122, in the order of R128. A family that is neither 1 nor 2 has no width, so under SKIP checks (e) and (f) do not
apply to it (assumption 8). The scope-prefix, at p+7, is never read (R131). -/
def parseEcs (policy : EcsUnknownFamily) (rd : Nat → Byte) (p olen : Nat) : OptionShape :=
  if olen < 4 then .malformed
  else
    match familyOf (be16 rd (p + 4)), policy with
    | none, .stop => .malformed
    | none, .skip => .passThrough olen
    | some fam, _ =>
      let nb := ceil8 (rd (p + 6)).toNat
      if nb > fam.width then .malformed
      else if nb > olen - 4 then .malformed
      else .ecs fam nb olen

/-- The option at cursor `p` of the byte sequence that `rd` reads, whose length is `len` (R117, R118): checks (a) and (b)
of R122, then the option code. `p < len` on every call. -/
def parseOption (policy : EcsUnknownFamily) (rd : Nat → Byte) (len p : Nat) : OptionShape :=
  if len - p < 4 then .malformed
  else
    let olen := (be16 rd (p + 2)).toNat
    if olen > len - p - 4 then .malformed
    else if (be16 rd p).toNat = Config.ecsCode then parseEcs policy rd p olen
    else .passThrough olen

/-- The bytes that replace the `nb` address bytes at offset `at_` (R121): pad with zeros to the family's width, run the
address function, truncate back. No bit is masked (R126). -/
def rewrittenAddress (ks : KeySchedule) (rd : Nat → Byte) (fam : Family) (at_ nb : Nat) : List Byte :=
  (fam.anonymise ks (slice rd at_ nb ++ List.replicate (fam.width - nb) 0)).take nb

/-- The byte sequence a list reads as. -/
def readList (b : List Byte) (i : Nat) : Byte := b.getD i 0

/-- A byte sequence with the bytes from offset `at_` on replaced by `r`, as far as `r` goes. -/
def spliceAt (b : List Byte) (at_ : Nat) (r : List Byte) : List Byte := b.take at_ ++ r ++ b.drop (at_ + r.length)

/-- What OptRewrite returns (R116): b', stop, malformed, count. -/
structure RewriteResult where
  bytes : List Byte
  stop : Nat
  malformed : Bool
  count : Nat
  deriving DecidableEq, Repr

/-- The loop of R128 at cursor `p`, with `n` options rewritten so far.
The first argument bounds the header checks left; R127 bounds them by L/4 + 1, so it never runs out (assumption 7). -/
def optLoop (policy : EcsUnknownFamily) (ks : KeySchedule) : Nat → List Byte → Nat → Nat → RewriteResult
  | 0, b, p, n => ⟨b, p, true, n⟩
  | fuel + 1, b, p, n =>
    if p = b.length then ⟨b, p, false, n⟩
    else
      match parseOption policy (readList b) b.length p with
      | .malformed => ⟨b, p, true, n⟩
      | .passThrough olen => optLoop policy ks fuel b (p + 4 + olen) n
      | .ecs fam nb olen =>
        optLoop policy ks fuel (spliceAt b (p + 8) (rewrittenAddress ks (readList b) fam (p + 8) nb)) (p + 4 + olen) (n + 1)

/-- OptRewrite(ks, b) (R116, R128), under a choice for unknown families (R124). -/
def optRewrite (policy : EcsUnknownFamily) (ks : KeySchedule) (b : List Byte) : RewriteResult :=
  optLoop policy ks (b.length / 4 + 1) b 0 0

/-- RDSTAT.STOP_OFF <- stop; RDSTAT.MALFORMED <- mal; ECSCNT.COUNT <- n (R129). -/
def State.setReport (s : State) (r : RewriteResult) : State :=
  { s with stopOff := BitVec.ofNat 16 r.stop, malformed := r.malformed, count := BitVec.ofNat 16 r.count }

/-- The effect of OPT_REWRITE with a key loaded (R129): BUF[0..L) and the report. Every byte of BUF[0..L) is stored
(assumption 16). -/
def State.rewriteRdata (s : State) (len : BitVec 16) : State :=
  let r := optRewrite Config.ecsUnknownFamily s.ks (s.rdata len)
  (s.setBufBytes 0 r.bytes).setReport r

/-- OPT_REWRITE (R129). A malformed option is never an error (R123). -/
def execOptRewrite (len : BitVec 16) (s : State) : Host.Outcome State Fault Refusal :=
  .next (s.withKey fun t => t.rewriteRdata len)

/-! ### The same rewrite done in BUF itself (R132) -/

/-- The loop of R128 run on BUF in place (R132, D14): the state after it, the cursor where it ended, whether it stopped at a
malformed option, and the count. -/
def inPlaceLoop (policy : EcsUnknownFamily) (len : Nat) : Nat → State → Nat → Nat → State × Nat × Bool × Nat
  | 0, s, p, n => (s, p, true, n)
  | fuel + 1, s, p, n =>
    if p = len then (s, p, false, n)
    else
      match parseOption policy s.bufByte len p with
      | .malformed => (s, p, true, n)
      | .passThrough olen => inPlaceLoop policy len fuel s (p + 4 + olen) n
      | .ecs fam nb olen =>
        inPlaceLoop policy len fuel (s.setBufBytes (p + 8) (rewrittenAddress s.ks s.bufByte fam (p + 8) nb))
          (p + 4 + olen) (n + 1)

end Sys2Proof.Machine
end

