-- ==== Sys2Proof/Machine/Dispatch.lean ====
section
/-! DEFINITION. One arm per command (R37, R64): the meaning of each instruction. -/

namespace Sys2Proof.Machine

def exec (i : Instr) (s : State) : Host.Outcome State Fault Refusal :=
  match i with
  | .nop _ => Sys2Proof.Machine.execNop s
  | .keyLoad len => Sys2Proof.Machine.execKeyLoad len s
  | .encryptBlock _ => Sys2Proof.Machine.execEncryptBlock s
  | .anonV4 _ => Sys2Proof.Machine.execAnonV4 s
  | .anonV6 _ => Sys2Proof.Machine.execAnonV6 s
  | .optRewrite len => Sys2Proof.Machine.execOptRewrite len s

end Sys2Proof.Machine
end

