-- ==== Sys2Proof/Machine/Agents.lean ====
section
/-! DEFINITION. The two agents and the RESET input (R20, R37, R180): who makes the next step and what it is. -/

namespace Sys2Proof.Machine

/-- The core step (R37): the command in CUR runs whole and completes; a word that names no command raises ILLEGAL_OP. -/
def coreStep (s : State) : Host.Outcome State Fault Refusal :=
  match decode s.cur with
  | .ok i => exec i s
  | .error _ => .next (s.raise .illegalOp)

/-- The core's turn: it has a step exactly when BUSY = 1 (R37). With BUSY = 0 the block is idle (R167). -/
def coreTurn (s : State) : Host.Outcome State Fault Refusal :=
  if s.busy then coreStep s else .next s

/-- The next turn (R20, R38; assumption 3). When the outside world does nothing more, the core has every turn, so an
accepted command completes (R190; assumption 13). -/
def nextTurn (s : State) : Host.Outcome State Fault Refusal :=
  match s.turns with
  | [] => coreTurn s
  | .core :: rest => coreTurn { s with turns := rest }
  | .host a :: rest => .next (State.hostAccess { s with turns := rest } a)
  | .reset :: rest => .next (State.resetEvent { s with turns := rest })

/-- The state in which a command word has just been accepted and the core moves next (R36; assumption 3). -/
def placeCommand (s : State) (w : Word) : State := { s.accept w with turns := .core :: s.turns }

end Sys2Proof.Machine
end

