-- ==== Sys2Proof/Machine/Step.lean ====
section
/-! DEFINITION. One step of the machine, and how a command word is placed where the next step runs it. -/

namespace Sys2Proof.Machine

/-- One step: the agent whose turn it is makes it (R20). -/
def step (s : State) : Host.Outcome State Fault Refusal := nextTurn s

/-- The state with a command word, numbered as the opcode table numbers it, placed so that the very next step runs it:
what the acceptance of a host's write of it to CMD leaves (R36), with the core to move (assumption 3). -/
def State.withFetchWord (s : State) (nbits w : Nat) : State := placeCommand s (BitVec.ofNat 32 (w % 2 ^ nbits))

end Sys2Proof.Machine
end

