-- ==== Sys2Proof/Machine/HostProgram.lean ====
section
/-! DEFINITION. The host's side: the program syntax of R70 and the pseudo-instructions of R71, as text, as lines, and as the
turns they make the outside world take. The block itself fetches none of it (R60). -/

namespace Sys2Proof.Machine

/-- One line of a host program: a bus access (R70) or a pseudo-instruction (R71), with its numbers as written. -/
inductive HostLine where
  | wr (addr value : Nat)
  | rd (addr : Nat)
  | nop
  | keyLoad (n : Nat)
  | encryptBlock
  | anonV4
  | anonV6
  | optRewrite (n : Nat)
  | poll
  | wrbuf (bytes : List Nat)
  | rdbuf (k : Nat)
  | setkey (bytes : List Nat)
  deriving DecidableEq, Repr

/-- Every number of a line fits where it goes: addresses in ADDR_W bits, words in 32, LEN in 16, bytes in 8, the buffer's
bytes inside BUF, and a key of exactly 16 bytes (R44, R64, R27, R71). -/
def HostLine.wellFormed : HostLine → Bool
  | .wr addr value => decide (addr < 2 ^ 17) && decide (value < 2 ^ 32)
  | .rd addr => decide (addr < 2 ^ 17)
  | .nop | .encryptBlock | .anonV4 | .anonV6 | .poll => true
  | .keyLoad n | .optRewrite n => decide (n < 2 ^ 16)
  | .wrbuf bytes => decide (bytes.length ≤ Config.bufSize) && bytes.all fun b => decide (b < 2 ^ 8)
  | .rdbuf k => decide (k ≤ Config.bufSize)
  | .setkey bytes => decide (bytes.length = Config.keyBytes) && bytes.all fun b => decide (b < 2 ^ 8)

/-- The words of a byte string, most significant byte first, missing bytes of the last word written as 0x00 (R71). -/
def packWords : List Byte → List Word
  | [] => []
  | [a] => [wordOfBytes a 0 0 0]
  | [a, b] => [wordOfBytes a b 0 0]
  | [a, b, c] => [wordOfBytes a b c 0]
  | a :: b :: c :: d :: rest => wordOfBytes a b c d :: packWords rest

/-- The address of BUF word `j`: BUFW(j) = 0x10000 + 4*j (R70). -/
def bufw (j : Nat) : BusAddr := BitVec.ofNat 17 (0x10000 + 4 * j)

/-- WRBUF (R71). -/
def wrbufTurns (bytes : List Nat) : List Turn :=
  (packWords (bytes.map (BitVec.ofNat 8))).mapIdx fun j w => .host (.write (bufw j) w)

/-- A command mnemonic (R71): one write of its word to CMD. -/
def commandTurns (i : Instr) : List Turn := [.host (.write (Target.addr .cmd) (encode i))]

/-- POLL (R71): reads of STATUS until one finds BUSY = 0. The core moves after `early` reads; the last read then sees the
end of the command (R57). An early read after the core has already moved finds BUSY = 0 and changes nothing. -/
def pollTurns (early : Nat) : List Turn :=
  List.replicate early (.host (.read (Target.addr .status))) ++ [.core, .host (.read (Target.addr .status))]

/-- What a line makes the outside world do (R70, R71). `early` is how many reads each POLL makes before the core moves. -/
def HostLine.turns (early : Nat) : HostLine → List Turn
  | .wr addr value => [.host (.write (BitVec.ofNat 17 addr) (BitVec.ofNat 32 value))]
  | .rd addr => [.host (.read (BitVec.ofNat 17 addr))]
  | .nop => commandTurns (.nop 0)
  | .keyLoad n => commandTurns (.keyLoad (BitVec.ofNat 16 n))
  | .encryptBlock => commandTurns (.encryptBlock 0)
  | .anonV4 => commandTurns (.anonV4 0)
  | .anonV6 => commandTurns (.anonV6 0)
  | .optRewrite n => commandTurns (.optRewrite (BitVec.ofNat 16 n))
  | .poll => pollTurns early
  | .wrbuf bytes => wrbufTurns bytes
  | .rdbuf k => (List.range ((k + 3) / 4)).map fun j => .host (.read (bufw j))
  | .setkey bytes => wrbufTurns bytes ++ commandTurns (.keyLoad 16) ++ pollTurns early

/-! ### The text of a line (R70) -/

/-- The tokens of a line: split at spaces, tabs and commas, up to a semicolon, which starts a comment. The second argument
is the token under way, last character first. -/
def tokensFrom : List Char → List Char → List (List Char)
  | [], cur => if cur = [] then [] else [cur.reverse]
  | ch :: rest, cur =>
    if ch = ';' then (if cur = [] then [] else [cur.reverse])
    else if ch = ' ' ∨ ch = ',' ∨ ch = '\t' then
      if cur = [] then tokensFrom rest [] else cur.reverse :: tokensFrom rest []
    else tokensFrom rest (ch :: cur)

/-- The value of a digit, in hexadecimal or below. -/
def digitValue (ch : Char) : Option Nat :=
  let n := ch.toNat
  if 48 ≤ n ∧ n ≤ 57 then some (n - 48)
  else if 97 ≤ n ∧ n ≤ 102 then some (n - 87)
  else if 65 ≤ n ∧ n ≤ 70 then some (n - 55)
  else none

/-- The number that digits write in a base, after the value `acc` of the digits before them. -/
def digitsValue (base : Nat) : List Char → Nat → Option Nat
  | [], acc => some acc
  | ch :: rest, acc =>
    match digitValue ch with
    | some d => if d < base then digitsValue base rest (acc * base + d) else none
    | none => none

/-- A number: hexadecimal with 0x, or decimal (R70). -/
def parseNumber : List Char → Option Nat
  | '0' :: 'x' :: ch :: rest => digitsValue 16 (ch :: rest) 0
  | ch :: rest => digitsValue 10 (ch :: rest) 0
  | [] => none

/-- An address: a named offset, BUFW(j), or a number (R70). -/
def parseAddr (tok : List Char) : Option Nat :=
  match tok with
  | ['C', 'M', 'D'] => some 0x00000
  | ['S', 'T', 'A', 'T', 'U', 'S'] => some 0x00004
  | ['R', 'D', 'S', 'T', 'A', 'T'] => some 0x00008
  | ['E', 'C', 'S', 'C', 'N', 'T'] => some 0x0000C
  | ['D', 'I', 'N', ch] => if ch.toNat - 48 < 4 ∧ 48 ≤ ch.toNat then some (0x00010 + 4 * (ch.toNat - 48)) else none
  | ['D', 'O', 'U', 'T', ch] => if ch.toNat - 48 < 4 ∧ 48 ≤ ch.toNat then some (0x00020 + 4 * (ch.toNat - 48)) else none
  | 'B' :: 'U' :: 'F' :: 'W' :: '(' :: rest =>
    match rest.reverse with
    | ')' :: digits => (parseNumber digits.reverse).map fun j => 0x10000 + 4 * j
    | _ => none
  | _ => parseNumber tok

/-- Every token as a number. -/
def parseNumbers : List (List Char) → Option (List Nat)
  | [] => some []
  | tok :: rest =>
    match parseNumber tok, parseNumbers rest with
    | some n, some ns => some (n :: ns)
    | _, _ => none

/-- The pseudo-instructions and accesses by their tokens (R70, R71). -/
def parseTokens : List (List Char) → Option HostLine
  | [['W', 'R'], addr, value] =>
    match parseAddr addr, parseNumber value with
    | some a, some v => some (.wr a v)
    | _, _ => none
  | [['R', 'D'], addr] => (parseAddr addr).map .rd
  | [['N', 'O', 'P']] => some .nop
  | [['K', 'E', 'Y', '_', 'L', 'O', 'A', 'D'], n] => (parseNumber n).map .keyLoad
  | [['E', 'N', 'C', 'R', 'Y', 'P', 'T', '_', 'B', 'L', 'O', 'C', 'K']] => some .encryptBlock
  | [['A', 'N', 'O', 'N', '_', 'V', '4']] => some .anonV4
  | [['A', 'N', 'O', 'N', '_', 'V', '6']] => some .anonV6
  | [['O', 'P', 'T', '_', 'R', 'E', 'W', 'R', 'I', 'T', 'E'], n] => (parseNumber n).map .optRewrite
  | [['P', 'O', 'L', 'L']] => some .poll
  | ['W', 'R', 'B', 'U', 'F'] :: bytes => (parseNumbers bytes).map .wrbuf
  | [['R', 'D', 'B', 'U', 'F'], k] => (parseNumber k).map .rdbuf
  | ['S', 'E', 'T', 'K', 'E', 'Y'] :: bytes => (parseNumbers bytes).map .setkey
  | _ => none

/-- One line of text: no line for a blank or a comment, one line for a well-formed access or pseudo-instruction, and none
where the text is neither (R70; assumption 11). -/
def parseLine (text : List Char) : Option (List HostLine) :=
  match tokensFrom text [] with
  | [] => some []
  | toks =>
    match parseTokens toks with
    | some line => if line.wellFormed then some [line] else none
    | none => none

end Sys2Proof.Machine
end

