-- ==== Sys2Proof/Safety.lean ====
section
/-! DEFINITION. What claims about the machine are stated in: the invariant of every state that a run reaches, the runs of host
accesses, which states agree but for bus traffic, and which bytes of an OPT RDATA its rewrite may touch. -/

namespace Sys2Proof.Safety

open Sys2Proof.Machine

/-- What holds of the block in every state that a run reaches. -/
structure Inv (s : State) : Prop where
  /-- BUF is in canonical form and inside its 65536 bytes (R27). -/
  bufWf : s.buf.wf = true
  /-- ERR holds one of the four codes of R151; 0x4..0xF are never produced (A-5). -/
  errKnown : s.err ≤ 0x3
  /-- ERR is 0 while a command runs (R25). -/
  errWhileBusy : s.busy = true → s.err = 0
  /-- With no key, KS is 44 zero words (R40, R75). -/
  scheduleWithoutKey : s.keyValid = false → s.ks = zeroSchedule
  /-- With a key, KS is the expansion of some raw key (R30, R75, R77). -/
  scheduleOfKey : s.keyValid = true → ∃ k, s.ks = keyExpand k
  /-- Each ECS option counted lies before STOP_OFF and has at least 8 bytes (R29). -/
  countFits : 8 * s.count.toNat ≤ s.stopOff.toNat

/-- Two states of the block agree in everything that a command reads or writes: all but WERR and the model's record of
the traffic on the port. -/
def SameBlock (s t : State) : Prop :=
  t = { s with werr := t.werr, response := t.response, turns := t.turns, draws := t.draws }

/-- The state after a row of host accesses, one after the other (R44, R55). -/
def hostAccesses (s : State) (accesses : List BusAccess) : State := accesses.foldl State.hostAccess s

/-- The RDATA address fields that a parse of `len` bytes meets from cursor `p` on, as (offset, nb, family). The parse looks
at the original bytes, `fuel` bounds its header checks (R127). -/
def ecsFieldsFrom (policy : EcsUnknownFamily) (rd : Nat → Byte) (len : Nat) : Nat → Nat → List (Nat × Nat × Family)
  | 0, _ => []
  | fuel + 1, p =>
    if p = len then []
    else
      match parseOption policy rd len p with
      | .malformed => []
      | .passThrough olen => ecsFieldsFrom policy rd len fuel (p + 4 + olen)
      | .ecs fam nb olen => (p + 8, nb, fam) :: ecsFieldsFrom policy rd len fuel (p + 4 + olen)

/-- The address fields of the ECS options of `b`, left to right. -/
def ecsFields (policy : EcsUnknownFamily) (b : List Byte) : List (Nat × Nat × Family) :=
  ecsFieldsFrom policy (readList b) b.length (b.length / 4 + 1) 0

/-- The cursors at which a parse of `len` bytes from cursor `p` on checks a header, left to right (R127). -/
def optionCursorsFrom (policy : EcsUnknownFamily) (rd : Nat → Byte) (len : Nat) : Nat → Nat → List Nat
  | 0, _ => []
  | fuel + 1, p =>
    if p = len then []
    else
      match parseOption policy rd len p with
      | .malformed => [p]
      | .passThrough olen => p :: optionCursorsFrom policy rd len fuel (p + 4 + olen)
      | .ecs _ _ olen => p :: optionCursorsFrom policy rd len fuel (p + 4 + olen)

/-- The cursors of the options of `b`, left to right, the malformed one where parsing stops included. -/
def optionCursors (policy : EcsUnknownFamily) (b : List Byte) : List Nat :=
  optionCursorsFrom policy (readList b) b.length (b.length / 4 + 1) 0

/-- Byte `i` of the RDATA once each field is replaced by the pseudonym of its ORIGINAL bytes, and nothing else is
touched. -/
def fieldwiseByte (ks : KeySchedule) (b : List Byte) : List (Nat × Nat × Family) → Nat → Byte
  | [], i => readList b i
  | (start, nb, fam) :: fields, i =>
    if start ≤ i ∧ i < start + nb then readList (rewrittenAddress ks (readList b) fam start nb) (i - start)
    else fieldwiseByte ks b fields i

/-- A step that stops the machine. -/
def Stops (s : State) : Prop := ∀ t, step s ≠ .next t

end Sys2Proof.Safety
end

