-- ==== Sys2Proof/Laws/State.lean ====
section
/-! SUPPORT. What each update of the state leaves in each field: one lemma per field per update, so that no proof unfolds
a record update. -/

namespace Sys2Proof.Machine

/-! ### State.complete -/

@[simp] theorem State.complete_cur (s : State) : (s.complete).cur = s.cur := rfl
@[simp] theorem State.complete_busy (s : State) : (s.complete).busy = false := rfl
@[simp] theorem State.complete_keyValid (s : State) : (s.complete).keyValid = s.keyValid := rfl
@[simp] theorem State.complete_werr (s : State) : (s.complete).werr = s.werr := rfl
@[simp] theorem State.complete_err (s : State) : (s.complete).err = 0 := rfl
@[simp] theorem State.complete_ks (s : State) : (s.complete).ks = s.ks := rfl
@[simp] theorem State.complete_din (s : State) : (s.complete).din = s.din := rfl
@[simp] theorem State.complete_dout (s : State) : (s.complete).dout = s.dout := rfl
@[simp] theorem State.complete_buf (s : State) : (s.complete).buf = s.buf := rfl
@[simp] theorem State.complete_stopOff (s : State) : (s.complete).stopOff = s.stopOff := rfl
@[simp] theorem State.complete_malformed (s : State) : (s.complete).malformed = s.malformed := rfl
@[simp] theorem State.complete_count (s : State) : (s.complete).count = s.count := rfl
@[simp] theorem State.complete_response (s : State) : (s.complete).response = s.response := rfl
@[simp] theorem State.complete_turns (s : State) : (s.complete).turns = s.turns := rfl
@[simp] theorem State.complete_draws (s : State) : (s.complete).draws = s.draws := rfl
@[simp] theorem State.complete_resets (s : State) : (s.complete).resets = s.resets := rfl

/-! ### State.raise -/

@[simp] theorem State.raise_cur (s : State) (e : ErrCode) : (s.raise e).cur = s.cur := rfl
@[simp] theorem State.raise_busy (s : State) (e : ErrCode) : (s.raise e).busy = false := rfl
@[simp] theorem State.raise_keyValid (s : State) (e : ErrCode) : (s.raise e).keyValid = s.keyValid := rfl
@[simp] theorem State.raise_werr (s : State) (e : ErrCode) : (s.raise e).werr = s.werr := rfl
@[simp] theorem State.raise_err (s : State) (e : ErrCode) : (s.raise e).err = e.code := rfl
@[simp] theorem State.raise_ks (s : State) (e : ErrCode) : (s.raise e).ks = s.ks := rfl
@[simp] theorem State.raise_din (s : State) (e : ErrCode) : (s.raise e).din = s.din := rfl
@[simp] theorem State.raise_dout (s : State) (e : ErrCode) : (s.raise e).dout = s.dout := rfl
@[simp] theorem State.raise_buf (s : State) (e : ErrCode) : (s.raise e).buf = s.buf := rfl
@[simp] theorem State.raise_stopOff (s : State) (e : ErrCode) : (s.raise e).stopOff = s.stopOff := rfl
@[simp] theorem State.raise_malformed (s : State) (e : ErrCode) : (s.raise e).malformed = s.malformed := rfl
@[simp] theorem State.raise_count (s : State) (e : ErrCode) : (s.raise e).count = s.count := rfl
@[simp] theorem State.raise_response (s : State) (e : ErrCode) : (s.raise e).response = s.response := rfl
@[simp] theorem State.raise_turns (s : State) (e : ErrCode) : (s.raise e).turns = s.turns := rfl
@[simp] theorem State.raise_draws (s : State) (e : ErrCode) : (s.raise e).draws = s.draws := rfl
@[simp] theorem State.raise_resets (s : State) (e : ErrCode) : (s.raise e).resets = s.resets := rfl

/-! ### State.accept -/

@[simp] theorem State.accept_cur (s : State) (v : Word) : (s.accept v).cur = v := rfl
@[simp] theorem State.accept_busy (s : State) (v : Word) : (s.accept v).busy = true := rfl
@[simp] theorem State.accept_keyValid (s : State) (v : Word) : (s.accept v).keyValid = s.keyValid := rfl
@[simp] theorem State.accept_werr (s : State) (v : Word) : (s.accept v).werr = false := rfl
@[simp] theorem State.accept_err (s : State) (v : Word) : (s.accept v).err = 0 := rfl
@[simp] theorem State.accept_ks (s : State) (v : Word) : (s.accept v).ks = s.ks := rfl
@[simp] theorem State.accept_din (s : State) (v : Word) : (s.accept v).din = s.din := rfl
@[simp] theorem State.accept_dout (s : State) (v : Word) : (s.accept v).dout = s.dout := rfl
@[simp] theorem State.accept_buf (s : State) (v : Word) : (s.accept v).buf = s.buf := rfl
@[simp] theorem State.accept_stopOff (s : State) (v : Word) : (s.accept v).stopOff = s.stopOff := rfl
@[simp] theorem State.accept_malformed (s : State) (v : Word) : (s.accept v).malformed = s.malformed := rfl
@[simp] theorem State.accept_count (s : State) (v : Word) : (s.accept v).count = s.count := rfl
@[simp] theorem State.accept_response (s : State) (v : Word) : (s.accept v).response = s.response := rfl
@[simp] theorem State.accept_turns (s : State) (v : Word) : (s.accept v).turns = s.turns := rfl
@[simp] theorem State.accept_draws (s : State) (v : Word) : (s.accept v).draws = s.draws := rfl
@[simp] theorem State.accept_resets (s : State) (v : Word) : (s.accept v).resets = s.resets := rfl

/-! ### State.dropKey -/

@[simp] theorem State.dropKey_cur (s : State) : (s.dropKey).cur = s.cur := rfl
@[simp] theorem State.dropKey_busy (s : State) : (s.dropKey).busy = s.busy := rfl
@[simp] theorem State.dropKey_keyValid (s : State) : (s.dropKey).keyValid = false := rfl
@[simp] theorem State.dropKey_werr (s : State) : (s.dropKey).werr = s.werr := rfl
@[simp] theorem State.dropKey_err (s : State) : (s.dropKey).err = s.err := rfl
@[simp] theorem State.dropKey_ks (s : State) : (s.dropKey).ks = zeroSchedule := rfl
@[simp] theorem State.dropKey_din (s : State) : (s.dropKey).din = s.din := rfl
@[simp] theorem State.dropKey_dout (s : State) : (s.dropKey).dout = s.dout := rfl
@[simp] theorem State.dropKey_buf (s : State) : (s.dropKey).buf = s.buf := rfl
@[simp] theorem State.dropKey_stopOff (s : State) : (s.dropKey).stopOff = s.stopOff := rfl
@[simp] theorem State.dropKey_malformed (s : State) : (s.dropKey).malformed = s.malformed := rfl
@[simp] theorem State.dropKey_count (s : State) : (s.dropKey).count = s.count := rfl
@[simp] theorem State.dropKey_response (s : State) : (s.dropKey).response = s.response := rfl
@[simp] theorem State.dropKey_turns (s : State) : (s.dropKey).turns = s.turns := rfl
@[simp] theorem State.dropKey_draws (s : State) : (s.dropKey).draws = s.draws := rfl
@[simp] theorem State.dropKey_resets (s : State) : (s.dropKey).resets = s.resets := rfl

/-! ### State.installKey -/

@[simp] theorem State.installKey_cur (s : State) (k : Block) : (s.installKey k).cur = s.cur := rfl
@[simp] theorem State.installKey_busy (s : State) (k : Block) : (s.installKey k).busy = s.busy := rfl
@[simp] theorem State.installKey_keyValid (s : State) (k : Block) : (s.installKey k).keyValid = true := rfl
@[simp] theorem State.installKey_werr (s : State) (k : Block) : (s.installKey k).werr = s.werr := rfl
@[simp] theorem State.installKey_err (s : State) (k : Block) : (s.installKey k).err = s.err := rfl
@[simp] theorem State.installKey_ks (s : State) (k : Block) : (s.installKey k).ks = keyExpand k := rfl
@[simp] theorem State.installKey_din (s : State) (k : Block) : (s.installKey k).din = s.din := rfl
@[simp] theorem State.installKey_dout (s : State) (k : Block) : (s.installKey k).dout = s.dout := rfl
@[simp] theorem State.installKey_buf (s : State) (k : Block) : (s.installKey k).buf = s.buf := rfl
@[simp] theorem State.installKey_stopOff (s : State) (k : Block) : (s.installKey k).stopOff = s.stopOff := rfl
@[simp] theorem State.installKey_malformed (s : State) (k : Block) : (s.installKey k).malformed = s.malformed := rfl
@[simp] theorem State.installKey_count (s : State) (k : Block) : (s.installKey k).count = s.count := rfl
@[simp] theorem State.installKey_response (s : State) (k : Block) : (s.installKey k).response = s.response := rfl
@[simp] theorem State.installKey_turns (s : State) (k : Block) : (s.installKey k).turns = s.turns := rfl
@[simp] theorem State.installKey_draws (s : State) (k : Block) : (s.installKey k).draws = s.draws := rfl
@[simp] theorem State.installKey_resets (s : State) (k : Block) : (s.installKey k).resets = s.resets := rfl

/-! ### State.setDout -/

@[simp] theorem State.setDout_cur (s : State) (b : Block) : (s.setDout b).cur = s.cur := rfl
@[simp] theorem State.setDout_busy (s : State) (b : Block) : (s.setDout b).busy = s.busy := rfl
@[simp] theorem State.setDout_keyValid (s : State) (b : Block) : (s.setDout b).keyValid = s.keyValid := rfl
@[simp] theorem State.setDout_werr (s : State) (b : Block) : (s.setDout b).werr = s.werr := rfl
@[simp] theorem State.setDout_err (s : State) (b : Block) : (s.setDout b).err = s.err := rfl
@[simp] theorem State.setDout_ks (s : State) (b : Block) : (s.setDout b).ks = s.ks := rfl
@[simp] theorem State.setDout_din (s : State) (b : Block) : (s.setDout b).din = s.din := rfl
@[simp] theorem State.setDout_dout (s : State) (b : Block) : (s.setDout b).dout = b := rfl
@[simp] theorem State.setDout_buf (s : State) (b : Block) : (s.setDout b).buf = s.buf := rfl
@[simp] theorem State.setDout_stopOff (s : State) (b : Block) : (s.setDout b).stopOff = s.stopOff := rfl
@[simp] theorem State.setDout_malformed (s : State) (b : Block) : (s.setDout b).malformed = s.malformed := rfl
@[simp] theorem State.setDout_count (s : State) (b : Block) : (s.setDout b).count = s.count := rfl
@[simp] theorem State.setDout_response (s : State) (b : Block) : (s.setDout b).response = s.response := rfl
@[simp] theorem State.setDout_turns (s : State) (b : Block) : (s.setDout b).turns = s.turns := rfl
@[simp] theorem State.setDout_draws (s : State) (b : Block) : (s.setDout b).draws = s.draws := rfl
@[simp] theorem State.setDout_resets (s : State) (b : Block) : (s.setDout b).resets = s.resets := rfl

/-! ### State.setReport -/

@[simp] theorem State.setReport_cur (s : State) (r : RewriteResult) : (s.setReport r).cur = s.cur := rfl
@[simp] theorem State.setReport_busy (s : State) (r : RewriteResult) : (s.setReport r).busy = s.busy := rfl
@[simp] theorem State.setReport_keyValid (s : State) (r : RewriteResult) : (s.setReport r).keyValid = s.keyValid := rfl
@[simp] theorem State.setReport_werr (s : State) (r : RewriteResult) : (s.setReport r).werr = s.werr := rfl
@[simp] theorem State.setReport_err (s : State) (r : RewriteResult) : (s.setReport r).err = s.err := rfl
@[simp] theorem State.setReport_ks (s : State) (r : RewriteResult) : (s.setReport r).ks = s.ks := rfl
@[simp] theorem State.setReport_din (s : State) (r : RewriteResult) : (s.setReport r).din = s.din := rfl
@[simp] theorem State.setReport_dout (s : State) (r : RewriteResult) : (s.setReport r).dout = s.dout := rfl
@[simp] theorem State.setReport_buf (s : State) (r : RewriteResult) : (s.setReport r).buf = s.buf := rfl
@[simp] theorem State.setReport_stopOff (s : State) (r : RewriteResult) : (s.setReport r).stopOff = BitVec.ofNat 16 r.stop := rfl
@[simp] theorem State.setReport_malformed (s : State) (r : RewriteResult) : (s.setReport r).malformed = r.malformed := rfl
@[simp] theorem State.setReport_count (s : State) (r : RewriteResult) : (s.setReport r).count = BitVec.ofNat 16 r.count := rfl
@[simp] theorem State.setReport_response (s : State) (r : RewriteResult) : (s.setReport r).response = s.response := rfl
@[simp] theorem State.setReport_turns (s : State) (r : RewriteResult) : (s.setReport r).turns = s.turns := rfl
@[simp] theorem State.setReport_draws (s : State) (r : RewriteResult) : (s.setReport r).draws = s.draws := rfl
@[simp] theorem State.setReport_resets (s : State) (r : RewriteResult) : (s.setReport r).resets = s.resets := rfl

/-! ### State.dropWrite -/

@[simp] theorem State.dropWrite_cur (s : State) : (s.dropWrite).cur = s.cur := rfl
@[simp] theorem State.dropWrite_busy (s : State) : (s.dropWrite).busy = s.busy := rfl
@[simp] theorem State.dropWrite_keyValid (s : State) : (s.dropWrite).keyValid = s.keyValid := rfl
@[simp] theorem State.dropWrite_werr (s : State) : (s.dropWrite).werr = true := rfl
@[simp] theorem State.dropWrite_err (s : State) : (s.dropWrite).err = s.err := rfl
@[simp] theorem State.dropWrite_ks (s : State) : (s.dropWrite).ks = s.ks := rfl
@[simp] theorem State.dropWrite_din (s : State) : (s.dropWrite).din = s.din := rfl
@[simp] theorem State.dropWrite_dout (s : State) : (s.dropWrite).dout = s.dout := rfl
@[simp] theorem State.dropWrite_buf (s : State) : (s.dropWrite).buf = s.buf := rfl
@[simp] theorem State.dropWrite_stopOff (s : State) : (s.dropWrite).stopOff = s.stopOff := rfl
@[simp] theorem State.dropWrite_malformed (s : State) : (s.dropWrite).malformed = s.malformed := rfl
@[simp] theorem State.dropWrite_count (s : State) : (s.dropWrite).count = s.count := rfl
@[simp] theorem State.dropWrite_response (s : State) : (s.dropWrite).response = s.response := rfl
@[simp] theorem State.dropWrite_turns (s : State) : (s.dropWrite).turns = s.turns := rfl
@[simp] theorem State.dropWrite_draws (s : State) : (s.dropWrite).draws = s.draws := rfl
@[simp] theorem State.dropWrite_resets (s : State) : (s.dropWrite).resets = s.resets := rfl

/-! ### State.respond -/

@[simp] theorem State.respond_cur (s : State) (r : BusResponse) : (s.respond r).cur = s.cur := rfl
@[simp] theorem State.respond_busy (s : State) (r : BusResponse) : (s.respond r).busy = s.busy := rfl
@[simp] theorem State.respond_keyValid (s : State) (r : BusResponse) : (s.respond r).keyValid = s.keyValid := rfl
@[simp] theorem State.respond_werr (s : State) (r : BusResponse) : (s.respond r).werr = s.werr := rfl
@[simp] theorem State.respond_err (s : State) (r : BusResponse) : (s.respond r).err = s.err := rfl
@[simp] theorem State.respond_ks (s : State) (r : BusResponse) : (s.respond r).ks = s.ks := rfl
@[simp] theorem State.respond_din (s : State) (r : BusResponse) : (s.respond r).din = s.din := rfl
@[simp] theorem State.respond_dout (s : State) (r : BusResponse) : (s.respond r).dout = s.dout := rfl
@[simp] theorem State.respond_buf (s : State) (r : BusResponse) : (s.respond r).buf = s.buf := rfl
@[simp] theorem State.respond_stopOff (s : State) (r : BusResponse) : (s.respond r).stopOff = s.stopOff := rfl
@[simp] theorem State.respond_malformed (s : State) (r : BusResponse) : (s.respond r).malformed = s.malformed := rfl
@[simp] theorem State.respond_count (s : State) (r : BusResponse) : (s.respond r).count = s.count := rfl
@[simp] theorem State.respond_response (s : State) (r : BusResponse) : (s.respond r).response = some r := rfl
@[simp] theorem State.respond_turns (s : State) (r : BusResponse) : (s.respond r).turns = s.turns := rfl
@[simp] theorem State.respond_draws (s : State) (r : BusResponse) : (s.respond r).draws = s.draws := rfl
@[simp] theorem State.respond_resets (s : State) (r : BusResponse) : (s.respond r).resets = s.resets := rfl

/-! ### State.setBufByte -/

@[simp] theorem State.setBufByte_cur (s : State) (i : Nat) (v : Byte) : (s.setBufByte i v).cur = s.cur := rfl
@[simp] theorem State.setBufByte_busy (s : State) (i : Nat) (v : Byte) : (s.setBufByte i v).busy = s.busy := rfl
@[simp] theorem State.setBufByte_keyValid (s : State) (i : Nat) (v : Byte) : (s.setBufByte i v).keyValid = s.keyValid := rfl
@[simp] theorem State.setBufByte_werr (s : State) (i : Nat) (v : Byte) : (s.setBufByte i v).werr = s.werr := rfl
@[simp] theorem State.setBufByte_err (s : State) (i : Nat) (v : Byte) : (s.setBufByte i v).err = s.err := rfl
@[simp] theorem State.setBufByte_ks (s : State) (i : Nat) (v : Byte) : (s.setBufByte i v).ks = s.ks := rfl
@[simp] theorem State.setBufByte_din (s : State) (i : Nat) (v : Byte) : (s.setBufByte i v).din = s.din := rfl
@[simp] theorem State.setBufByte_dout (s : State) (i : Nat) (v : Byte) : (s.setBufByte i v).dout = s.dout := rfl
@[simp] theorem State.setBufByte_buf (s : State) (i : Nat) (v : Byte) : (s.setBufByte i v).buf = s.buf.store i v := rfl
@[simp] theorem State.setBufByte_stopOff (s : State) (i : Nat) (v : Byte) : (s.setBufByte i v).stopOff = s.stopOff := rfl
@[simp] theorem State.setBufByte_malformed (s : State) (i : Nat) (v : Byte) : (s.setBufByte i v).malformed = s.malformed := rfl
@[simp] theorem State.setBufByte_count (s : State) (i : Nat) (v : Byte) : (s.setBufByte i v).count = s.count := rfl
@[simp] theorem State.setBufByte_response (s : State) (i : Nat) (v : Byte) : (s.setBufByte i v).response = s.response := rfl
@[simp] theorem State.setBufByte_turns (s : State) (i : Nat) (v : Byte) : (s.setBufByte i v).turns = s.turns := rfl
@[simp] theorem State.setBufByte_draws (s : State) (i : Nat) (v : Byte) : (s.setBufByte i v).draws = s.draws := rfl
@[simp] theorem State.setBufByte_resets (s : State) (i : Nat) (v : Byte) : (s.setBufByte i v).resets = s.resets := rfl

/-! ### placeCommand -/

@[simp] theorem placeCommand_cur (s : State) (w : Word) : (placeCommand s w).cur = w := rfl
@[simp] theorem placeCommand_busy (s : State) (w : Word) : (placeCommand s w).busy = true := rfl
@[simp] theorem placeCommand_keyValid (s : State) (w : Word) : (placeCommand s w).keyValid = s.keyValid := rfl
@[simp] theorem placeCommand_werr (s : State) (w : Word) : (placeCommand s w).werr = false := rfl
@[simp] theorem placeCommand_err (s : State) (w : Word) : (placeCommand s w).err = 0 := rfl
@[simp] theorem placeCommand_ks (s : State) (w : Word) : (placeCommand s w).ks = s.ks := rfl
@[simp] theorem placeCommand_din (s : State) (w : Word) : (placeCommand s w).din = s.din := rfl
@[simp] theorem placeCommand_dout (s : State) (w : Word) : (placeCommand s w).dout = s.dout := rfl
@[simp] theorem placeCommand_buf (s : State) (w : Word) : (placeCommand s w).buf = s.buf := rfl
@[simp] theorem placeCommand_stopOff (s : State) (w : Word) : (placeCommand s w).stopOff = s.stopOff := rfl
@[simp] theorem placeCommand_malformed (s : State) (w : Word) : (placeCommand s w).malformed = s.malformed := rfl
@[simp] theorem placeCommand_count (s : State) (w : Word) : (placeCommand s w).count = s.count := rfl
@[simp] theorem placeCommand_response (s : State) (w : Word) : (placeCommand s w).response = s.response := rfl
@[simp] theorem placeCommand_turns (s : State) (w : Word) : (placeCommand s w).turns = .core :: s.turns := rfl
@[simp] theorem placeCommand_draws (s : State) (w : Word) : (placeCommand s w).draws = s.draws := rfl
@[simp] theorem placeCommand_resets (s : State) (w : Word) : (placeCommand s w).resets = s.resets := rfl

/-! ### State.resetEvent -/

@[simp] theorem State.resetEvent_cur (s : State) : s.resetEvent.cur = State.reset.cur := rfl
@[simp] theorem State.resetEvent_busy (s : State) : s.resetEvent.busy = State.reset.busy := rfl
@[simp] theorem State.resetEvent_keyValid (s : State) : s.resetEvent.keyValid = State.reset.keyValid := rfl
@[simp] theorem State.resetEvent_werr (s : State) : s.resetEvent.werr = State.reset.werr := rfl
@[simp] theorem State.resetEvent_err (s : State) : s.resetEvent.err = State.reset.err := rfl
@[simp] theorem State.resetEvent_ks (s : State) : s.resetEvent.ks = State.reset.ks := rfl
@[simp] theorem State.resetEvent_din (s : State) : s.resetEvent.din = State.reset.din := rfl
@[simp] theorem State.resetEvent_dout (s : State) : s.resetEvent.dout = State.reset.dout := rfl
@[simp] theorem State.resetEvent_buf (s : State) : s.resetEvent.buf = State.reset.buf := rfl
@[simp] theorem State.resetEvent_stopOff (s : State) : s.resetEvent.stopOff = State.reset.stopOff := rfl
@[simp] theorem State.resetEvent_malformed (s : State) : s.resetEvent.malformed = State.reset.malformed := rfl
@[simp] theorem State.resetEvent_count (s : State) : s.resetEvent.count = State.reset.count := rfl
@[simp] theorem State.resetEvent_response (s : State) : s.resetEvent.response = State.reset.response := rfl
@[simp] theorem State.resetEvent_turns (s : State) : s.resetEvent.turns = s.turns := rfl
@[simp] theorem State.resetEvent_draws (s : State) : s.resetEvent.draws = s.draws := rfl
@[simp] theorem State.resetEvent_resets (s : State) : s.resetEvent.resets = s.resets + 1 := rfl

/-! ### State.setDoutV4 -/

@[simp] theorem State.setDoutV4_cur (s : State) (a : V4Bytes) :
    (s.setDoutV4 a).cur = s.cur := rfl
@[simp] theorem State.setDoutV4_busy (s : State) (a : V4Bytes) :
    (s.setDoutV4 a).busy = s.busy := rfl
@[simp] theorem State.setDoutV4_keyValid (s : State) (a : V4Bytes) :
    (s.setDoutV4 a).keyValid = s.keyValid := rfl
@[simp] theorem State.setDoutV4_werr (s : State) (a : V4Bytes) :
    (s.setDoutV4 a).werr = s.werr := rfl
@[simp] theorem State.setDoutV4_err (s : State) (a : V4Bytes) :
    (s.setDoutV4 a).err = s.err := rfl
@[simp] theorem State.setDoutV4_ks (s : State) (a : V4Bytes) :
    (s.setDoutV4 a).ks = s.ks := rfl
@[simp] theorem State.setDoutV4_din (s : State) (a : V4Bytes) :
    (s.setDoutV4 a).din = s.din := rfl
@[simp] theorem State.setDoutV4_dout (s : State) (a : V4Bytes) :
    (s.setDoutV4 a).dout = #v[a[0], a[1], a[2], a[3], 0, 0, 0, 0, 0, 0, 0, 0, 0, 0, 0, 0] := rfl
@[simp] theorem State.setDoutV4_buf (s : State) (a : V4Bytes) :
    (s.setDoutV4 a).buf = s.buf := rfl
@[simp] theorem State.setDoutV4_stopOff (s : State) (a : V4Bytes) :
    (s.setDoutV4 a).stopOff = s.stopOff := rfl
@[simp] theorem State.setDoutV4_malformed (s : State) (a : V4Bytes) :
    (s.setDoutV4 a).malformed = s.malformed := rfl
@[simp] theorem State.setDoutV4_count (s : State) (a : V4Bytes) :
    (s.setDoutV4 a).count = s.count := rfl
@[simp] theorem State.setDoutV4_response (s : State) (a : V4Bytes) :
    (s.setDoutV4 a).response = s.response := rfl
@[simp] theorem State.setDoutV4_turns (s : State) (a : V4Bytes) :
    (s.setDoutV4 a).turns = s.turns := rfl
@[simp] theorem State.setDoutV4_draws (s : State) (a : V4Bytes) :
    (s.setDoutV4 a).draws = s.draws := rfl
@[simp] theorem State.setDoutV4_resets (s : State) (a : V4Bytes) :
    (s.setDoutV4 a).resets = s.resets := rfl

/-! ### State.setBufBytes and State.setBufWord: every field but BUF -/

/-- Writing bytes to BUF changes BUF alone. -/
theorem State.setBufBytes_eq (s : State) (i : Nat) (vs : List Byte) :
    s.setBufBytes i vs = { s with buf := (s.setBufBytes i vs).buf } := by
  induction vs generalizing s i with
  | nil => rfl
  | cons v vs ih => exact ih (s.setBufByte i v) (i + 1)

@[simp] theorem State.setBufBytes_cur (s : State) (i : Nat) (vs : List Byte) :
    (s.setBufBytes i vs).cur = s.cur := by rw [State.setBufBytes_eq]
@[simp] theorem State.setBufBytes_busy (s : State) (i : Nat) (vs : List Byte) :
    (s.setBufBytes i vs).busy = s.busy := by rw [State.setBufBytes_eq]
@[simp] theorem State.setBufBytes_keyValid (s : State) (i : Nat) (vs : List Byte) :
    (s.setBufBytes i vs).keyValid = s.keyValid := by rw [State.setBufBytes_eq]
@[simp] theorem State.setBufBytes_werr (s : State) (i : Nat) (vs : List Byte) :
    (s.setBufBytes i vs).werr = s.werr := by rw [State.setBufBytes_eq]
@[simp] theorem State.setBufBytes_err (s : State) (i : Nat) (vs : List Byte) :
    (s.setBufBytes i vs).err = s.err := by rw [State.setBufBytes_eq]
@[simp] theorem State.setBufBytes_ks (s : State) (i : Nat) (vs : List Byte) :
    (s.setBufBytes i vs).ks = s.ks := by rw [State.setBufBytes_eq]
@[simp] theorem State.setBufBytes_din (s : State) (i : Nat) (vs : List Byte) :
    (s.setBufBytes i vs).din = s.din := by rw [State.setBufBytes_eq]
@[simp] theorem State.setBufBytes_dout (s : State) (i : Nat) (vs : List Byte) :
    (s.setBufBytes i vs).dout = s.dout := by rw [State.setBufBytes_eq]
@[simp] theorem State.setBufBytes_stopOff (s : State) (i : Nat) (vs : List Byte) :
    (s.setBufBytes i vs).stopOff = s.stopOff := by rw [State.setBufBytes_eq]
@[simp] theorem State.setBufBytes_malformed (s : State) (i : Nat) (vs : List Byte) :
    (s.setBufBytes i vs).malformed = s.malformed := by rw [State.setBufBytes_eq]
@[simp] theorem State.setBufBytes_count (s : State) (i : Nat) (vs : List Byte) :
    (s.setBufBytes i vs).count = s.count := by rw [State.setBufBytes_eq]
@[simp] theorem State.setBufBytes_response (s : State) (i : Nat) (vs : List Byte) :
    (s.setBufBytes i vs).response = s.response := by rw [State.setBufBytes_eq]
@[simp] theorem State.setBufBytes_turns (s : State) (i : Nat) (vs : List Byte) :
    (s.setBufBytes i vs).turns = s.turns := by rw [State.setBufBytes_eq]
@[simp] theorem State.setBufBytes_draws (s : State) (i : Nat) (vs : List Byte) :
    (s.setBufBytes i vs).draws = s.draws := by rw [State.setBufBytes_eq]
@[simp] theorem State.setBufBytes_resets (s : State) (i : Nat) (vs : List Byte) :
    (s.setBufBytes i vs).resets = s.resets := by rw [State.setBufBytes_eq]
@[simp] theorem State.setBufWord_cur (s : State) (j : Nat) (w : Word) :
    (s.setBufWord j w).cur = s.cur := State.setBufBytes_cur _ _ _
@[simp] theorem State.setBufWord_busy (s : State) (j : Nat) (w : Word) :
    (s.setBufWord j w).busy = s.busy := State.setBufBytes_busy _ _ _
@[simp] theorem State.setBufWord_keyValid (s : State) (j : Nat) (w : Word) :
    (s.setBufWord j w).keyValid = s.keyValid := State.setBufBytes_keyValid _ _ _
@[simp] theorem State.setBufWord_werr (s : State) (j : Nat) (w : Word) :
    (s.setBufWord j w).werr = s.werr := State.setBufBytes_werr _ _ _
@[simp] theorem State.setBufWord_err (s : State) (j : Nat) (w : Word) :
    (s.setBufWord j w).err = s.err := State.setBufBytes_err _ _ _
@[simp] theorem State.setBufWord_ks (s : State) (j : Nat) (w : Word) :
    (s.setBufWord j w).ks = s.ks := State.setBufBytes_ks _ _ _
@[simp] theorem State.setBufWord_din (s : State) (j : Nat) (w : Word) :
    (s.setBufWord j w).din = s.din := State.setBufBytes_din _ _ _
@[simp] theorem State.setBufWord_dout (s : State) (j : Nat) (w : Word) :
    (s.setBufWord j w).dout = s.dout := State.setBufBytes_dout _ _ _
@[simp] theorem State.setBufWord_stopOff (s : State) (j : Nat) (w : Word) :
    (s.setBufWord j w).stopOff = s.stopOff := State.setBufBytes_stopOff _ _ _
@[simp] theorem State.setBufWord_malformed (s : State) (j : Nat) (w : Word) :
    (s.setBufWord j w).malformed = s.malformed := State.setBufBytes_malformed _ _ _
@[simp] theorem State.setBufWord_count (s : State) (j : Nat) (w : Word) :
    (s.setBufWord j w).count = s.count := State.setBufBytes_count _ _ _
@[simp] theorem State.setBufWord_response (s : State) (j : Nat) (w : Word) :
    (s.setBufWord j w).response = s.response := State.setBufBytes_response _ _ _
@[simp] theorem State.setBufWord_turns (s : State) (j : Nat) (w : Word) :
    (s.setBufWord j w).turns = s.turns := State.setBufBytes_turns _ _ _
@[simp] theorem State.setBufWord_draws (s : State) (j : Nat) (w : Word) :
    (s.setBufWord j w).draws = s.draws := State.setBufBytes_draws _ _ _
@[simp] theorem State.setBufWord_resets (s : State) (j : Nat) (w : Word) :
    (s.setBufWord j w).resets = s.resets := State.setBufBytes_resets _ _ _

end Sys2Proof.Machine
end

