-- ==== Sys2Proof/Laws/Memory.lean ====
section
/-! SUPPORT. The bytes of a word, and BUF as memory: reads after writes, the canonical form, and that it makes equal memories equal data (R27, R50,
R55). -/

namespace Sys2Proof.Machine

/-! ### Byte order (R52) -/

/-- The bits of a word of four bytes, byte 3 lowest. -/
theorem getLsbD_wordOfBytes (b0 b1 b2 b3 : Byte) (i : Nat) :
    (wordOfBytes b0 b1 b2 b3).getLsbD i =
      if i < 8 then b3.getLsbD i else if i < 16 then b2.getLsbD (i - 8) else if i < 24 then b1.getLsbD (i - 16)
      else b0.getLsbD (i - 24) := by
  have h : (wordOfBytes b0 b1 b2 b3).getLsbD i = (b0 ++ b1 ++ b2 ++ b3 : BitVec (8 + 8 + 8 + 8)).getLsbD i := rfl
  rw [h, BitVec.getLsbD_append, BitVec.getLsbD_append, BitVec.getLsbD_append]
  split_ifs <;> first | rfl | omega

/-- The bytes of a word are the bytes it was made of. -/
theorem byteOfWord_wordOfBytes (b0 b1 b2 b3 : Byte) :
    byteOfWord (wordOfBytes b0 b1 b2 b3) 0 = b0 ∧ byteOfWord (wordOfBytes b0 b1 b2 b3) 1 = b1 ∧
    byteOfWord (wordOfBytes b0 b1 b2 b3) 2 = b2 ∧ byteOfWord (wordOfBytes b0 b1 b2 b3) 3 = b3 := by
  refine ⟨?_, ?_, ?_, ?_⟩ <;> apply BitVec.eq_of_getLsbD_eq <;> intro i hi <;>
    simp only [byteOfWord, BitVec.getLsbD_extractLsb', getLsbD_wordOfBytes, hi] <;>
    split_ifs <;> first | omega | simp

/-! ### One byte -/

@[simp] theorem Memory.lookup_nil (a : Nat) : Memory.lookup [] a = none := rfl

theorem Memory.lookup_cons (b : Nat) (x : Byte) (m : Memory) (a : Nat) :
    Memory.lookup ((b, x) :: m) a = if a = b then some x else Memory.lookup m a := rfl

@[simp] theorem Memory.lookup_store_same (m : Memory) (a : Nat) (v : Byte) : (m.store a v).lookup a = some v := by
  induction m with
  | nil => simp [Memory.store, Memory.lookup]
  | cons c m ih =>
    obtain ⟨b, x⟩ := c
    rw [Memory.store]
    split_ifs with h1 h2
    · simp [Memory.lookup]
    · simp [Memory.lookup]
    · simp [Memory.lookup, h2, ih]

theorem Memory.lookup_store_other (m : Memory) {a a' : Nat} (v : Byte) (h : a' ≠ a) :
    (m.store a v).lookup a' = m.lookup a' := by
  induction m with
  | nil => simp [Memory.store, Memory.lookup, h]
  | cons c m ih =>
    obtain ⟨b, x⟩ := c
    rw [Memory.store]
    split_ifs with h1 h2
    · simp [Memory.lookup, h]
    · subst h2; simp [Memory.lookup, h]
    · simp [Memory.lookup, ih]

/-! ### The canonical form -/

/-- A canonical memory lists nothing below where it starts. -/
theorem Memory.lookup_below {low : Nat} {m : Memory} (h : Memory.wfFrom low m = true) {a : Nat} (ha : a < low) :
    m.lookup a = none := by
  induction m generalizing low with
  | nil => rfl
  | cons c m ih =>
    obtain ⟨b, x⟩ := c
    simp only [Memory.wfFrom, Bool.and_eq_true, decide_eq_true_eq] at h
    rw [Memory.lookup_cons, if_neg (by omega)]
    exact ih h.2 (by omega)

theorem Memory.wfFrom_store {low : Nat} {m : Memory} (h : Memory.wfFrom low m = true) {a : Nat} (v : Byte)
    (hl : low ≤ a) (ha : a < Config.bufSize) : Memory.wfFrom low (m.store a v) = true := by
  induction m generalizing low with
  | nil => simp [Memory.store, Memory.wfFrom, hl, ha]
  | cons c m ih =>
    obtain ⟨b, x⟩ := c
    simp only [Memory.wfFrom, Bool.and_eq_true, decide_eq_true_eq] at h
    rw [Memory.store]
    split_ifs with h1 h2
    · simp only [Memory.wfFrom, Bool.and_eq_true, decide_eq_true_eq]
      exact ⟨⟨hl, ha⟩, ⟨by omega, h.1.2⟩, h.2⟩
    · subst h2
      simp only [Memory.wfFrom, Bool.and_eq_true, decide_eq_true_eq]
      exact ⟨⟨hl, ha⟩, h.2⟩
    · simp only [Memory.wfFrom, Bool.and_eq_true, decide_eq_true_eq]
      exact ⟨h.1, ih h.2 (by omega)⟩

/-- Writing a byte inside BUF keeps the canonical form. -/
theorem Memory.wf_store {m : Memory} (h : m.wf = true) {a : Nat} (v : Byte) (ha : a < Config.bufSize) :
    (m.store a v).wf = true :=
  Memory.wfFrom_store h v (Nat.zero_le a) ha

/-- Two canonical memories that list the same bytes are the same list. -/
theorem Memory.ext_from {low : Nat} {m m' : Memory} (h : Memory.wfFrom low m = true) (h' : Memory.wfFrom low m' = true)
    (he : ∀ a, m.lookup a = m'.lookup a) : m = m' := by
  induction m generalizing low m' with
  | nil =>
    cases m' with
    | nil => rfl
    | cons c' m' =>
      obtain ⟨b', x'⟩ := c'
      simpa [Memory.lookup_cons] using he b'
  | cons c m ih =>
    obtain ⟨b, x⟩ := c
    cases m' with
    | nil => simpa [Memory.lookup_cons] using he b
    | cons c' m' =>
      obtain ⟨b', x'⟩ := c'
      simp only [Memory.wfFrom, Bool.and_eq_true, decide_eq_true_eq] at h h'
      have hb : b = b' := by
        rcases Nat.lt_trichotomy b b' with hlt | heq | hgt
        · have := he b
          rw [Memory.lookup_cons, if_pos rfl, Memory.lookup_cons, if_neg (by omega), Memory.lookup_below h'.2 (by omega)]
            at this
          cases this
        · exact heq
        · have := he b'
          rw [Memory.lookup_cons, if_neg (by omega), Memory.lookup_below h.2 (by omega), Memory.lookup_cons, if_pos rfl]
            at this
          cases this
      subst hb
      have hx : x = x' := by simpa [Memory.lookup_cons] using he b
      subst hx
      rw [ih h.2 h'.2 fun a => ?_]
      by_cases hab : a = b
      · subst hab; rw [Memory.lookup_below h.2 (by omega), Memory.lookup_below h'.2 (by omega)]
      · simpa [Memory.lookup_cons, hab] using he a

/-- Equal memories are equal data. -/
theorem Memory.ext_of_wf {m m' : Memory} (h : m.wf = true) (h' : m'.wf = true)
    (he : ∀ a, m.lookup a = m'.lookup a) : m = m' :=
  Memory.ext_from h h' he

/-! ### Reads of BUF after writes -/

/-- A byte of BUF depends on what is listed and on the number of reset events, and on nothing else. -/
theorem State.bufByte_congr {s t : State} (hb : s.buf = t.buf) (hr : s.resets = t.resets) : s.bufByte = t.bufByte := by
  funext i; simp [State.bufByte, hb, hr]

@[simp] theorem State.bufByte_setBufByte_same (s : State) (i : Nat) (v : Byte) : (s.setBufByte i v).bufByte i = v := by
  simp [State.bufByte]

theorem State.bufByte_setBufByte_other (s : State) {i a : Nat} (v : Byte) (h : a ≠ i) :
    (s.setBufByte i v).bufByte a = s.bufByte a := by
  simp [State.bufByte, Memory.lookup_store_other _ v h]

/-- What BUF reads after a row of bytes is written: the bytes where they went, every other byte as before. -/
theorem State.bufByte_setBufBytes (s : State) (i : Nat) (vs : List Byte) (a : Nat) :
    (s.setBufBytes i vs).bufByte a = if i ≤ a ∧ a < i + vs.length then vs.getD (a - i) 0 else s.bufByte a := by
  induction vs generalizing s i with
  | nil => simp [State.setBufBytes]
  | cons v vs ih =>
    rw [State.setBufBytes, ih]
    by_cases ha : a = i
    · subst ha; simp
    · rw [State.bufByte_setBufByte_other s v ha]
      by_cases hin : i + 1 ≤ a ∧ a < i + 1 + vs.length
      · rw [if_pos hin, if_pos (by simp only [List.length_cons]; omega)]
        obtain ⟨d, rfl⟩ : ∃ d, a = i + 1 + d := ⟨a - (i + 1), by omega⟩
        rw [show i + 1 + d - i = d + 1 by omega, show i + 1 + d - (i + 1) = d by omega, List.getD_cons_succ]
      · rw [if_neg hin, if_neg (by simp only [List.length_cons]; omega)]

/-- Writing bytes inside BUF keeps the canonical form. -/
theorem State.setBufBytes_wf (s : State) (i : Nat) (vs : List Byte) (h : s.buf.wf = true)
    (hi : i + vs.length ≤ Config.bufSize) : (s.setBufBytes i vs).buf.wf = true := by
  induction vs generalizing s i with
  | nil => exact h
  | cons v vs ih =>
    simp only [List.length_cons] at hi
    exact ih (s.setBufByte i v) (i + 1) (Memory.wf_store h v (by omega)) (by omega)

/-- Writing a word inside BUF keeps the canonical form. -/
theorem State.setBufWord_wf (s : State) (j : Nat) (w : Word) (h : s.buf.wf = true) (hj : j < 16384) :
    (s.setBufWord j w).buf.wf = true :=
  State.setBufBytes_wf s (4 * j) _ h (by simp [Config.bufSize]; omega)

/-- The memory of the reset state is in canonical form. -/
theorem State.reset_buf_wf : State.reset.buf.wf = true := rfl

end Sys2Proof.Machine
end

