-- ==== Sys2Proof/Laws/Ops.lean ====
section
/-! SUPPORT. One lemma per shared operation that says what it can do, to be cited instead of unfolding it: the guard of the
key-using commands, the core step, the address map, reads and writes of the port, a host access, AnonV4, and the parse of one
option. -/

namespace Sys2Proof.Machine

/-! ### Commands -/

theorem State.withKey_of_key {s : State} (h : s.keyValid = true) (effect : State → State) :
    s.withKey effect = (effect s).complete := by simp [State.withKey, h]

theorem State.withKey_of_no_key {s : State} (h : s.keyValid = false) (effect : State → State) :
    s.withKey effect = s.raise .noKey := by simp [State.withKey, h]

/-- What the guard of R37 can do: with a key the effect, then completion; without one, NO_KEY alone. -/
theorem State.withKey_cases (s : State) (effect : State → State) :
    (s.keyValid = true ∧ s.withKey effect = (effect s).complete) ∨
      (s.keyValid = false ∧ s.withKey effect = s.raise .noKey) := by
  cases h : s.keyValid
  · exact .inr ⟨rfl, State.withKey_of_no_key h effect⟩
  · exact .inl ⟨rfl, State.withKey_of_key h effect⟩

/-- What KEY_LOAD can do (R75). -/
theorem execKeyLoad_cases (len : BitVec 16) (s : State) :
    (len = 16 ∧ execKeyLoad len s = .next (s.installKey s.keyOperand).complete) ∨
      (len ≠ 16 ∧ execKeyLoad len s = .next (s.dropKey.raise .invalidKeyLength)) := by
  by_cases h : lenOperand len = Config.keyBytes
  · exact .inl ⟨BitVec.eq_of_toNat_eq h, by simp [execKeyLoad, h]⟩
  · exact .inr ⟨fun e => h (by subst e; rfl), by simp [execKeyLoad, h]⟩

/-- What a core step can be: the meaning of the command CUR decodes to, or ILLEGAL_OP. -/
theorem coreStep_cases (s : State) :
    (∃ i, decode s.cur = .ok i ∧ coreStep s = exec i s) ∨
      (∃ e, decode s.cur = .error e ∧ coreStep s = .next (s.raise .illegalOp)) := by
  cases h : decode s.cur with
  | ok i => exact .inl ⟨i, rfl, by simp [coreStep, h]⟩
  | error e => exact .inr ⟨e, rfl, by simp [coreStep, h]⟩

/-- What a step can be, by whose turn it is. -/
theorem step_cases (s : State) :
    (s.turns = [] ∧ step s = coreTurn s) ∨
      (∃ rest, s.turns = .core :: rest ∧ step s = coreTurn { s with turns := rest }) ∨
      (∃ a rest, s.turns = .host a :: rest ∧ step s = .next (State.hostAccess { s with turns := rest } a)) ∨
      (∃ rest, s.turns = .reset :: rest ∧ step s = .next (State.resetEvent { s with turns := rest })) := by
  rcases h : s.turns with _ | ⟨_ | _ | _, rest⟩ <;> simp [step, nextTurn, h]

/-! ### The slave port -/

/-- What the address map answers: the checks of R158 in order, then the target whose address it is. -/
theorem decodeAddr_cases (addr : BusAddr) :
    (addr.toNat % 4 ≠ 0 ∧ decodeAddr addr = .error .misaligned) ∨
      (addr.toNat % 4 = 0 ∧ 0x30 ≤ addr.toNat ∧ addr.toNat < 0x10000 ∧ decodeAddr addr = .error .reserved) ∨
      (∃ t, decodeAddr addr = .ok t ∧ t.addr = addr) := by
  have ha := addr.isLt
  by_cases h1 : addr.toNat % 4 = 0
  · by_cases h2 : 0x10000 ≤ addr.toNat
    · refine .inr (.inr ⟨.bufWord (Fin.ofNat 16384 ((addr.toNat - 0x10000) / 4)), by simp [decodeAddr, h1, h2], ?_⟩)
      apply BitVec.eq_of_toNat_eq
      simp only [Target.addr, BitVec.toNat_ofNat, Fin.ofNat]
      omega
    · by_cases h3 : addr.toNat < 0x30
      · refine .inr (.inr ?_)
        obtain ⟨k, hk, hka⟩ : ∃ k, k < 12 ∧ addr.toNat = 4 * k := ⟨addr.toNat / 4, by omega, by omega⟩
        have he : addr = BitVec.ofNat 17 (4 * k) := by
          apply BitVec.eq_of_toNat_eq; rw [BitVec.toNat_ofNat]; omega
        subst he
        clear hka h1 h2 h3 ha
        interval_cases k <;> exact ⟨_, rfl, rfl⟩
      · refine .inr (.inl ⟨h1, by omega, by omega, ?_⟩)
        have hr : registerAt (addr.toNat / 4) = none := by
          obtain ⟨k, hk⟩ : ∃ k, addr.toNat / 4 = k + 12 := ⟨addr.toNat / 4 - 12, by omega⟩
          rw [hk]; rfl
        simp [decodeAddr, h1, h2, hr]
  · exact .inl ⟨h1, by simp [decodeAddr, h1]⟩

/-- A read changes nothing but the model's draw counter (R48). -/
theorem State.readTarget_state (s : State) (t : Target) :
    (s.readTarget t).2 = s ∨ (s.readTarget t).2 = { s with draws := s.draws + 1 } := by
  unfold State.readTarget; split <;> simp

/-- With BUSY = 0 every read is exact (R48, R57). -/
theorem State.readTarget_idle {s : State} (h : s.busy = false) (t : Target) : s.readTarget t = (s.exactRead t, s) := by
  cases t <;> simp [State.readTarget, State.readsDraw, State.keyLoadRunning, h]

/-- What a write can do while BUSY = 1: be dropped with WERR, or be ignored (R157). -/
theorem State.writeTarget_busy {s : State} (h : s.busy = true) (v : Word) (t : Target) :
    s.writeTarget v t = s ∨ s.writeTarget v t = s.dropWrite := by
  cases t <;> simp [State.writeTarget, h]

/-- What a write can do while BUSY = 0 (R36, R49, R50). -/
theorem State.writeTarget_idle {s : State} (h : s.busy = false) (v : Word) (t : Target) :
    s.writeTarget v t = s ∨ s.writeTarget v t = s.accept v ∨
      (∃ k, s.writeTarget v t = { s with din := setBlockWord s.din k v }) ∨
      (∃ j : Fin 16384, s.writeTarget v t = s.setBufWord j.val v) := by
  cases t with
  | cmd => exact .inr (.inl (by simp [State.writeTarget, h]))
  | din k => exact .inr (.inr (.inl ⟨k, by simp [State.writeTarget, h]⟩))
  | bufWord j => exact .inr (.inr (.inr ⟨j, by simp [State.writeTarget, h]⟩))
  | status => exact .inl rfl
  | rdstat => exact .inl rfl
  | ecscnt => exact .inl rfl
  | dout k => exact .inl rfl

/-- What a host access can be: an ERROR that changes nothing, a read, or a write. -/
theorem State.hostAccess_cases (s : State) (a : BusAccess) :
    s.hostAccess a = s.respond .error ∨
      (∃ t, s.hostAccess a = (s.readTarget t).2.respond (.okayData (s.readTarget t).1)) ∨
      (∃ v t, s.hostAccess a = (s.writeTarget v t).respond .okay) := by
  cases a with
  | read addr =>
    cases h : decodeAddr addr with
    | error e => exact .inl (by simp [State.hostAccess, h])
    | ok t => exact .inr (.inl ⟨t, by simp [State.hostAccess, h]⟩)
  | write addr v =>
    cases h : decodeAddr addr with
    | error e => exact .inl (by simp [State.hostAccess, h])
    | ok t => exact .inr (.inr ⟨v, t, by simp [State.hostAccess, h]⟩)

/-! ### Addresses -/

/-- AnonV4 is the first four bytes of an encryption (R106). -/
theorem anonV4_toList (ks : KeySchedule) (a : V4Bytes) :
    (anonV4 ks a).toList = (aesEncrypt ks (repeatV4 a)).toList.take 4 := by
  have take4 : ∀ v : Block, (#v[v[0], v[1], v[2], v[3]] : V4Bytes).toList = v.toList.take 4 := by
    rintro ⟨⟨l⟩, hl⟩
    match l, hl with
    | [_, _, _, _, _, _, _, _, _, _, _, _, _, _, _, _], _ => rfl
  exact take4 (aesEncrypt ks (repeatV4 a))

/-! ### The option parser -/

@[simp] theorem slice_length (rd : Nat → Byte) (i n : Nat) : (slice rd i n).length = n := by simp [slice]

/-- An address field padded with zeros, byte by byte (R121). -/
theorem paddedField_getD (rd : Nat → Byte) (start nb pad k : Nat) :
    (slice rd start nb ++ List.replicate pad 0).getD k 0 = if k < nb then rd (start + k) else 0 := by
  simp only [List.getD_eq_getElem?_getD]
  split
  · next h => rw [List.getElem?_append_left (by simpa using h)]; simp [slice, h]
  · next h =>
    rw [List.getElem?_append_right (by simp; omega)]
    simp only [List.getElem?_replicate]
    split <;> rfl

@[simp] theorem Family.anonymise_length (ks : KeySchedule) (a : List Byte) (fam : Family) :
    (fam.anonymise ks a).length = fam.width := by cases fam <;> simp [Family.anonymise, Family.width]

/-- The bytes written back for an address field are as many as the field has. -/
theorem rewrittenAddress_length (ks : KeySchedule) (rd : Nat → Byte) {fam : Family} (start : Nat) {nb : Nat}
    (h : nb ≤ fam.width) : (rewrittenAddress ks rd fam start nb).length = nb := by
  simp [rewrittenAddress, h]

/-- A splice inside a byte sequence keeps its length. -/
theorem spliceAt_length {b : List Byte} {start : Nat} {r : List Byte} (h : start + r.length ≤ b.length) :
    (spliceAt b start r).length = b.length := by
  simp [spliceAt]; omega

/-- What parseEcs can answer: a stop, the option left alone under SKIP, or a well-formed ECS option (R122). -/
theorem parseEcs_cases (policy : EcsUnknownFamily) (rd : Nat → Byte) (p olen : Nat) :
    parseEcs policy rd p olen = .malformed ∨
      (familyOf (be16 rd (p + 4)) = none ∧ policy = .skip ∧ parseEcs policy rd p olen = .passThrough olen) ∨
      ∃ fam, familyOf (be16 rd (p + 4)) = some fam ∧ 4 + ceil8 (rd (p + 6)).toNat ≤ olen ∧
        ceil8 (rd (p + 6)).toNat ≤ fam.width ∧
        parseEcs policy rd p olen = .ecs fam (ceil8 (rd (p + 6)).toNat) olen := by
  simp only [parseEcs]
  split
  · exact .inl rfl
  split
  · exact .inl rfl
  · next hf => exact .inr (.inl ⟨hf, rfl, rfl⟩)
  · next _ fam hf =>
    split
    · exact .inl rfl
    · split
      · exact .inl rfl
      · exact .inr (.inr ⟨fam, hf, by omega, by omega, rfl⟩)

/-- What parseOption can answer (R117, R118, R122). -/
theorem parseOption_cases (policy : EcsUnknownFamily) (rd : Nat → Byte) (len p : Nat) :
    parseOption policy rd len p = .malformed ∨
      (p + 4 + (be16 rd (p + 2)).toNat ≤ len ∧ (be16 rd p).toNat ≠ 8 ∧
        parseOption policy rd len p = .passThrough (be16 rd (p + 2)).toNat) ∨
      (p + 4 + (be16 rd (p + 2)).toNat ≤ len ∧ (be16 rd p).toNat = 8 ∧
        parseOption policy rd len p = parseEcs policy rd p (be16 rd (p + 2)).toNat) := by
  simp only [parseOption]
  split
  · exact .inl rfl
  split
  · exact .inl rfl
  split
  · next hc => exact .inr (.inr ⟨by omega, hc, rfl⟩)
  · next hc => exact .inr (.inl ⟨by omega, hc, rfl⟩)

/-- What a passed-through option promises: it ends inside the RDATA. -/
theorem parseOption_passThrough {policy : EcsUnknownFamily} {rd : Nat → Byte} {len p olen : Nat}
    (h : parseOption policy rd len p = .passThrough olen) : p + 4 + olen ≤ len := by
  rcases parseOption_cases policy rd len p with e | ⟨hl, -, e⟩ | ⟨hl, -, e⟩
  · simp [e] at h
  · rw [e] at h; cases h; exact hl
  · rcases parseEcs_cases policy rd p (be16 rd (p + 2)).toNat with e' | ⟨-, -, e'⟩ | ⟨fam, -, -, -, e'⟩ <;>
      rw [e, e'] at h <;> cases h
    exact hl

/-- What a well-formed ECS option promises: the option ends inside the RDATA, the address field inside the option, and the
field is no wider than the family's address (R122). -/
theorem parseOption_ecs {policy : EcsUnknownFamily} {rd : Nat → Byte} {len p nb olen : Nat} {fam : Family}
    (h : parseOption policy rd len p = .ecs fam nb olen) :
    p + 4 + olen ≤ len ∧ 4 + nb ≤ olen ∧ nb ≤ fam.width ∧ nb = ceil8 (rd (p + 6)).toNat ∧
      olen = (be16 rd (p + 2)).toNat ∧ (be16 rd p).toNat = 8 ∧ familyOf (be16 rd (p + 4)) = some fam := by
  rcases parseOption_cases policy rd len p with e | ⟨hl, -, e⟩ | ⟨hl, hc, e⟩
  · simp [e] at h
  · simp [e] at h
  · rcases parseEcs_cases policy rd p (be16 rd (p + 2)).toNat with e' | ⟨-, -, e'⟩ | ⟨fam', hf, h4, hw, e'⟩ <;>
      rw [e, e'] at h <;> cases h
    exact ⟨hl, h4, hw, rfl, rfl, hc, hf⟩

end Sys2Proof.Machine
end

