-- ==== Sys2Proof/Certificates/Slice0/Obligations.lean ====
section
/-! DEFINITION. The statements about the machine that the provers settle. Each docstring names the rules it follows. -/

open Sys2Proof Sys2Proof.Machine Sys2Proof.Safety

/-! ### Command words (R64 to R69) -/

/-- R64, R65, R69: decoding the word of a well-formed instruction gives it back, with every LEN. -/
def Obligations.DecodeOfEncodeIsIdentity : Prop :=
  ∀ i : Instr, i.wellFormed = true → decode (encode i) = .ok i

/-- R64: the decoder reads a word as the instruction whose row its low half matches and whose LEN its high half holds. -/
def Obligations.WordSelectsItsRow : Prop :=
  ∀ (w : Word) (i : Instr), decode w = .ok i ↔ w &&& 0x0000FFFF = i.rowMatch ∧ w.extractLsb' 16 16 = i.len

/-- R64, R24: one word of each row, with LEN values at the ends of their range, and the first reserved words. -/
def Obligations.WrittenOutWordsDecode : Prop :=
  decode 0x00000000 = .ok (.nop 0) ∧ decode 0xFFFF0000 = .ok (.nop 0xFFFF) ∧
  decode 0x00100001 = .ok (.keyLoad 16) ∧ decode 0x12340002 = .ok (.encryptBlock 0x1234) ∧
  decode 0x00000003 = .ok (.anonV4 0) ∧ decode 0x00000004 = .ok (.anonV6 0) ∧
  decode 0x000B0005 = .ok (.optRewrite 11) ∧ decode 0xFFFF0005 = .ok (.optRewrite 65535) ∧
  decode 0x00000012 = .error .reservedField ∧ decode 0x00000006 = .error .reservedOpcode

/-- R66, R67, R154: a word with RSVD not zero, or with OP above 5, raises ILLEGAL_OP and changes nothing else. -/
def Obligations.IllegalWordRaisesIllegalOp : Prop :=
  ∀ s : State, (s.cur.extractLsb' 4 12 ≠ 0 ∨ 0x5 < s.cur.extractLsb' 0 4) →
    coreStep s = .next { s with busy := false, err := 0x3 }

/-- R65: two words of a row that ignores LEN behave alike, whatever their LEN fields are. -/
def Obligations.IgnoredLenNeverMatters : Prop :=
  ∀ (s : State) (w w' : Word), w &&& 0x0000FFFF = w' &&& 0x0000FFFF →
    (w &&& 0x0000FFFF = 0 ∨ w &&& 0x0000FFFF = 2 ∨ w &&& 0x0000FFFF = 3 ∨ w &&& 0x0000FFFF = 4) →
    ∃ t, coreStep { s with cur := w } = .next t ∧ coreStep { s with cur := w' } = .next { t with cur := w' }

/-! ### Steps (R20, R37) -/

/-- R37, R154: on the core's turn with BUSY = 1 a step is the core step, whatever word CUR holds: the meaning of the instruction
that CUR decodes to, or ILLEGAL_OP alone where it decodes to none. With BUSY = 0 the core has no step. Whose turn it is comes from
the model's list of turns; with none listed the core has every turn (assumptions 3 and 13). -/
def Obligations.StepRunsTheCommandInCur : Prop :=
  ∀ (s : State) (rest : List Turn),
    (s.turns = .core :: rest → s.busy = true → step s = coreStep { s with turns := rest }) ∧
    (s.turns = .core :: rest → s.busy = false → step s = .next { s with turns := rest }) ∧
    (s.turns = [] → s.busy = true → step s = coreStep s) ∧
    (s.turns = [] → s.busy = false → step s = .next s) ∧
    (∀ i : Instr, decode s.cur = .ok i →
      (s.turns = .core :: rest → s.busy = true → step s = exec i { s with turns := rest }) ∧
      (s.turns = [] → s.busy = true → step s = exec i s)) ∧
    (∀ e, decode s.cur = .error e →
      (s.turns = .core :: rest → s.busy = true → step s = .next { s with turns := rest, busy := false, err := 0x3 }) ∧
      (s.turns = [] → s.busy = true → step s = .next { s with busy := false, err := 0x3 }))

/-- R20, R44: on the host's turn a step is its one access. The turns are the model's (assumption 3). -/
def Obligations.StepMakesTheHostsAccess : Prop :=
  ∀ (s : State) (a : BusAccess) (rest : List Turn), s.turns = .host a :: rest →
    step s = .next { s.hostAccess a with turns := rest }

/-- R150: every state has a next state: no step faults and none is refused. -/
def Obligations.NoStepStops : Prop := ∀ s : State, ¬ Stops s

/-- R38, R150: every core step completes the command: BUSY falls, and ERR holds a code of R151. -/
def Obligations.CoreStepCompletes : Prop :=
  ∀ s : State, ∃ t, coreStep s = .next t ∧ t.busy = false ∧ t.err ≤ 0x3

/-! ### The commands (R75, R76, R98, R108, R109, R129) -/

/-- R76, R36, R38: NOP completes with no effect of its own; accepted and run, it clears ERR and WERR and needs no key. -/
def Obligations.NopOnlyClearsStatus : Prop :=
  (∀ (s : State) (len : BitVec 16), exec (.nop len) s = .next { s with busy := false, err := 0 }) ∧
  (∀ (s : State) (w : Word), w &&& 0x0000FFFF = 0 →
    coreStep (s.accept w) = .next { s with cur := w, busy := false, err := 0, werr := false })

/-- R75, R152: KEY_LOAD with LEN = 16 installs the expansion of BUF[0..16); with any other LEN it destroys the key. -/
def Obligations.KeyLoadResult : Prop :=
  ∀ (s : State) (len : BitVec 16), exec (.keyLoad len) s =
    if len.toNat = 16 then
      .next { s with ks := keyExpand (Vector.ofFn fun i : Fin 16 => s.bufByte i.val), keyValid := true, busy := false, err := 0 }
    else
      .next { s with ks := Vector.replicate 44 0, keyValid := false, busy := false, err := 0x1 }

/-- R98: ENCRYPT_BLOCK writes the encryption of DIN to DOUT and nothing else; with no key it raises NO_KEY alone. -/
def Obligations.EncryptBlockResult : Prop :=
  ∀ (s : State) (len : BitVec 16), exec (.encryptBlock len) s =
    if s.keyValid = true then .next { s with dout := aesEncrypt s.ks s.din, busy := false, err := 0 }
    else .next { s with busy := false, err := 0x2 }

/-- R106, R108: ANON_V4 writes the first four bytes of the encryption of DIN_bytes[0..4) four times over, and twelve
zeros. -/
def Obligations.AnonV4Result : Prop :=
  ∀ (s : State) (len : BitVec 16),
    (s.keyValid = true → ∃ t, exec (.anonV4 len) s = .next t ∧ t = { s with dout := t.dout, busy := false, err := 0 } ∧
      ∀ i : Fin 16, t.dout[i] =
        if i.val < 4 then (aesEncrypt s.ks (Vector.ofFn fun j : Fin 16 => s.din[j.val % 4]))[i] else 0) ∧
    (s.keyValid = false → exec (.anonV4 len) s = .next { s with busy := false, err := 0x2 })

/-- R107, R109: ANON_V6 writes the encryption of DIN_bytes to DOUT, as ENCRYPT_BLOCK does. -/
def Obligations.AnonV6Result : Prop :=
  ∀ (s : State) (len : BitVec 16),
    (s.keyValid = true → exec (.anonV6 len) s = .next { s with dout := aesEncrypt s.ks s.din, busy := false, err := 0 }) ∧
    (s.keyValid = false → exec (.anonV6 len) s = .next { s with busy := false, err := 0x2 })

/-- R129: OPT_REWRITE replaces BUF[0..L) by the rewritten bytes, reports where parsing ended and how many options it
rewrote, and leaves BUF[L..) and everything else alone; with no key it raises NO_KEY alone.
ECS_UNKNOWN_FAMILY is the open constant of Config, so this holds whichever value it has. -/
def Obligations.OptRewriteResult : Prop :=
  ∀ (s : State) (len : BitVec 16),
    (s.keyValid = true → ∃ t, exec (.optRewrite len) s = .next t ∧
      t = { s with buf := t.buf, stopOff := t.stopOff, malformed := t.malformed, count := t.count, busy := false, err := 0 } ∧
      (let r := optRewrite Config.ecsUnknownFamily s.ks (s.bufBytes 0 len.toNat)
       t.stopOff.toNat = r.stop ∧ t.malformed = r.malformed ∧ t.count.toNat = r.count ∧
       ∀ a : Nat, t.bufByte a = if a < len.toNat then r.bytes.getD a 0 else s.bufByte a)) ∧
    (s.keyValid = false → exec (.optRewrite len) s = .next { s with busy := false, err := 0x2 })

/-- R153: the core step of ENCRYPT_BLOCK, ANON_V4, ANON_V6 or OPT_REWRITE with KEY_VALID = 0 raises NO_KEY and changes
nothing else. -/
def Obligations.KeyUsingCommandsNeedAKey : Prop :=
  ∀ s : State, s.keyValid = false →
    (s.cur &&& 0x0000FFFF = 2 ∨ s.cur &&& 0x0000FFFF = 3 ∨ s.cur &&& 0x0000FFFF = 4 ∨ s.cur &&& 0x0000FFFF = 5) →
    coreStep s = .next { s with busy := false, err := 0x2 }

/-- R39: what each command may write, whether it fails or not. No command writes CUR, WERR or DIN. -/
def Obligations.CommandsWriteOnlyTheirState : Prop :=
  ∀ (i : Instr) (s t : State), exec i s = .next t →
    match i with
    | .nop _ => t = { s with busy := false, err := t.err }
    | .keyLoad _ => t = { s with busy := false, err := t.err, ks := t.ks, keyValid := t.keyValid }
    | .encryptBlock _ | .anonV4 _ | .anonV6 _ => t = { s with busy := false, err := t.err, dout := t.dout }
    | .optRewrite len =>
      t = { s with busy := false, err := t.err, buf := t.buf, stopOff := t.stopOff, malformed := t.malformed, count := t.count } ∧
      ∀ a : Nat, len.toNat ≤ a → t.bufByte a = s.bufByte a

/-- R39, R150: a command that ends with an error code writes only ERR and BUSY, but for a failed KEY_LOAD, which also drops
the key. -/
def Obligations.FailedCommandWritesOnlyErr : Prop :=
  ∀ s t : State, coreStep s = .next t → t.err ≠ 0 →
    t = { s with busy := false, err := t.err } ∨
    (t.err = 0x1 ∧ t = { s with busy := false, err := 0x1, keyValid := false, ks := Vector.replicate 44 0 })

/-- R158: the code of a core step is the first that applies of ILLEGAL_OP, NO_KEY and INVALID_KEY_LENGTH; and a write while
BUSY = 1 is first checked for misalignment, then for a reserved offset, and only then dropped. -/
def Obligations.FirstErrorWins : Prop :=
  (∀ s : State, ∃ t, coreStep s = .next t ∧
    t.err =
      if s.cur.extractLsb' 4 12 ≠ 0 ∨ 0x5 < s.cur.extractLsb' 0 4 then 0x3
      else if 0x2 ≤ s.cur.extractLsb' 0 4 ∧ s.keyValid = false then 0x2
      else if s.cur.extractLsb' 0 4 = 0x1 ∧ s.cur.extractLsb' 16 16 ≠ 16 then 0x1
      else 0x0) ∧
  (∀ (s : State) (addr : BusAddr) (v : Word), s.busy = true → s.hostAccess (.write addr v) =
    if addr.toNat % 4 ≠ 0 then { s with response := some .error }
    else if 0x30 ≤ addr.toNat ∧ addr.toNat < 0x10000 then { s with response := some .error }
    else if addr.toNat = 0 ∨ (0x10 ≤ addr.toNat ∧ addr.toNat < 0x20) ∨ 0x10000 ≤ addr.toNat then
      { s with werr := true, response := some .okay }
    else { s with response := some .okay })

/-- R168: with a key loaded, every legal command but KEY_LOAD completes with ERR = 0, whatever DIN and BUF hold. -/
def Obligations.CommandsCannotFailWithAKey : Prop :=
  ∀ (s : State) (w : Word), s.keyValid = true → wordLegal w = true → w &&& 0x0000FFFF ≠ 1 →
    ∃ t, coreStep (s.accept w) = .next t ∧ t.err = 0 ∧ t.busy = false

/-- R182: right after a reset event the commands that complete without error are NOP and KEY_LOAD 16. -/
def Obligations.OnlyNopAndKeyLoadAfterReset : Prop :=
  ∀ (s : State) (w : Word), ∃ t, coreStep (s.resetEvent.accept w) = .next t ∧
    (t.err = 0 ↔ w &&& 0x0000FFFF = 0 ∨ w = 0x00100001)

/-- R63, R110: running a command other than OPT_REWRITE again, with nothing in between, changes nothing. -/
def Obligations.RepeatedCommandChangesNothing : Prop :=
  ∀ (i : Instr) (s t : State), (∀ len, i ≠ .optRewrite len) → exec i s = .next t → exec i t = .next t

/-! ### AES-128 (R72 to R74, R91 to R99) -/

/-- R99: for every key schedule, encryption is a bijection on blocks. -/
def Obligations.AesEncryptIsBijective : Prop := ∀ ks : KeySchedule, Function.Bijective (aesEncrypt ks)

/-- R111: under one key, what ANON_V6 makes of the address in DIN is a bijection on 16-byte addresses. -/
def Obligations.AnonV6PermutesAddresses : Prop :=
  ∀ (s : State) (len : BitVec 16), s.keyValid = true →
    ∃ f : Block → Block, Function.Bijective f ∧
      ∀ a : Block, ∃ t, exec (.anonV6 len) { s with din := a } = .next t ∧ t.dout = f a

/-- R72, R73, R74: the recurrence that defines the 44 words of a key schedule, with RotWord, SubWord and the round constants it
uses. -/
def Obligations.KeyExpandFollowsItsRecurrence : Prop :=
  ∀ (k : Block),
    let w : Nat → Word := fun i => (keyExpand k).toList.getD i 0
    (∀ i : Fin 4, w i.val = wordOfBytes k[4 * i.val] k[4 * i.val + 1] k[4 * i.val + 2] k[4 * i.val + 3]) ∧
    (∀ i : Nat, 4 ≤ i → i < 44 → i % 4 ≠ 0 → w i = w (i - 4) ^^^ w (i - 1)) ∧
    (∀ i : Nat, 4 ≤ i → i < 44 → i % 4 = 0 →
      w i = w (i - 4) ^^^ (subWord (rotWord (w (i - 1))) ^^^ wordOfBytes (rcon (i / 4)) 0 0 0)) ∧
    (∀ b0 b1 b2 b3 : Byte, rotWord (wordOfBytes b0 b1 b2 b3) = wordOfBytes b1 b2 b3 b0 ∧
      subWord (wordOfBytes b0 b1 b2 b3) = wordOfBytes (sbox b0) (sbox b1) (sbox b2) (sbox b3)) ∧
    rcon 1 = 0x01 ∧ (∀ j : Nat, 1 ≤ j → j < 10 → rcon (j + 1) = xtime (rcon j))

/-- R91 to R95, R97: AES128_Encrypt is its rounds in order, whatever the intermediate states are called; what SubBytes, ShiftRows
and AddRoundKey put at row r, column c; and the S-box is the affine map of the inverse in GF(2^8), 0 being its own inverse.
(MixColumns and the product of GF(2^8) have their own statement.) -/
def Obligations.RoundStepsByRowAndColumn : Prop :=
  (∀ (ks : KeySchedule) (input : Block) (st : Fin 10 → Block), st 0 = addRoundKey ks 0 input →
    (∀ r : Fin 9, st r.succ = addRoundKey ks r.succ.castSucc (mixColumns (shiftRows (subBytes (st r.castSucc))))) →
    aesEncrypt ks input = addRoundKey ks 10 (shiftRows (subBytes (st 9)))) ∧
  (∀ (ks : KeySchedule) (round : Fin 11) (b : Block) (r c : Fin 4),
    (subBytes b)[r.val + 4 * c.val] = sbox b[r.val + 4 * c.val] ∧
    (shiftRows b)[r.val + 4 * c.val] = b[r.val + 4 * ((c.val + r.val) % 4)] ∧
    (addRoundKey ks round b)[r.val + 4 * c.val] = b[r.val + 4 * c.val] ^^^ byteOfWord ks[4 * round.val + c.val] r.val) ∧
  sbox 0x00 = 0x63 ∧
  (∀ x : Byte, x ≠ 0 → ∃ y : Byte, gmul x y = 1 ∧
    sbox x = y ^^^ y.rotateLeft 1 ^^^ y.rotateLeft 2 ^^^ y.rotateLeft 3 ^^^ y.rotateLeft 4 ^^^ 0x63)

/-- R96: MixColumns multiplies each column by the matrix of GF(2^8), with the general product; and the laws that fix that product
and xtime, the doubling modulo 0x11B. -/
def Obligations.MixColumnsIsAMatrixProduct : Prop :=
  (∀ (b : Block) (c : Fin 4),
    let a0 := b[4 * c.val]
    let a1 := b[1 + 4 * c.val]
    let a2 := b[2 + 4 * c.val]
    let a3 := b[3 + 4 * c.val]
    (mixColumns b)[4 * c.val] = gmul a0 2 ^^^ gmul a1 3 ^^^ gmul a2 1 ^^^ gmul a3 1 ∧
    (mixColumns b)[1 + 4 * c.val] = gmul a0 1 ^^^ gmul a1 2 ^^^ gmul a2 3 ^^^ gmul a3 1 ∧
    (mixColumns b)[2 + 4 * c.val] = gmul a0 1 ^^^ gmul a1 1 ^^^ gmul a2 2 ^^^ gmul a3 3 ∧
    (mixColumns b)[3 + 4 * c.val] = gmul a0 3 ^^^ gmul a1 1 ^^^ gmul a2 1 ^^^ gmul a3 2) ∧
  (∀ a b c : Byte, gmul a 1 = a ∧ gmul a (b ^^^ c) = gmul a b ^^^ gmul a c ∧ gmul a (xtime b) = xtime (gmul a b)) ∧
  (∀ a : Byte, xtime a = (a <<< 1) ^^^ (if a.getLsbD 7 = true then 0x1B else 0x00))

/-! ### OPT RDATA (R116 to R133) -/

/-- R116, R29, R130: the length is kept, the cursor stays inside, and each counted option has its eight bytes before
STOP_OFF. -/
def Obligations.RewriteKeepsLengthAndBounds : Prop :=
  ∀ (policy : EcsUnknownFamily) (ks : KeySchedule) (b : List Byte),
    let r := optRewrite policy ks b
    r.bytes.length = b.length ∧ r.stop ≤ b.length ∧ 8 * r.count ≤ r.stop

/-- R127: more header checks than L/4 + 1 change nothing: the loop ends by itself. -/
def Obligations.ParserTerminatesWithinItsBound : Prop :=
  ∀ (policy : EcsUnknownFamily) (ks : KeySchedule) (b : List Byte) (more : Nat),
    optLoop policy ks (b.length / 4 + 1 + more) b 0 0 = optRewrite policy ks b

/-- R106, R107, R120, R121, R126, R130, R132: every byte of the result is the original byte, or, inside the address field of an ECS
option, the byte of the field's pseudonym; the count is the number of fields; and the pseudonym of a field, for either family and
every number nb of bytes up to its width, is the first nb bytes of the encryption of the field's ORIGINAL bytes, zero-padded to the
width, and for IPv4 repeated four times. -/
def Obligations.RewriteIsFieldwise : Prop :=
  ∀ (policy : EcsUnknownFamily) (ks : KeySchedule) (b : List Byte),
    (optRewrite policy ks b).count = (ecsFields policy b).length ∧
    (∀ i : Nat, i < b.length → readList (optRewrite policy ks b).bytes i = fieldwiseByte ks b (ecsFields policy b) i) ∧
    (∀ start nb : Nat, nb ≤ 4 → rewrittenAddress ks (readList b) .v4 start nb =
      (aesEncrypt ks (Vector.ofFn fun i : Fin 16 => if i.val % 4 < nb then readList b (start + i.val % 4) else 0)).toList.take nb) ∧
    (∀ start nb : Nat, nb ≤ 16 → rewrittenAddress ks (readList b) .v6 start nb =
      (aesEncrypt ks (Vector.ofFn fun i : Fin 16 => if i.val < nb then readList b (start + i.val) else 0)).toList.take nb)

/-- R117, R119, R120, R122: an address field lies inside the RDATA, behind an ECS header of its family, and has as many
bytes as its source-prefix calls for. -/
def Obligations.FieldsAreEcsAddressBytes : Prop :=
  ∀ (policy : EcsUnknownFamily) (b : List Byte) (start nb : Nat) (fam : Family), (start, nb, fam) ∈ ecsFields policy b →
    8 ≤ start ∧ start + nb ≤ b.length ∧ nb ≤ fam.width ∧
    (be16 (readList b) (start - 8)).toNat = 8 ∧
    4 + nb ≤ (be16 (readList b) (start - 6)).toNat ∧ start - 4 + (be16 (readList b) (start - 6)).toNat ≤ b.length ∧
    (be16 (readList b) (start - 4)).toNat = (match fam with | .v4 => 1 | .v6 => 2) ∧
    nb = ((readList b (start - 2)).toNat + 7) / 8

/-- R123: from the stop offset on, every byte is as it was; parsing is malformed exactly when it stops short of the end, and
then what stands at the stop offset is malformed. -/
def Obligations.StoppingLeavesTheTail : Prop :=
  ∀ (policy : EcsUnknownFamily) (ks : KeySchedule) (b : List Byte),
    let r := optRewrite policy ks b
    (∀ i : Nat, r.stop ≤ i → readList r.bytes i = readList b i) ∧
    (r.malformed = false ↔ r.stop = b.length) ∧
    (r.malformed = true → parseOption policy (readList b) b.length r.stop = .malformed)

/-- R122, R124, R128: when the parser finds a malformed option, under both choices for unknown families. That the last two cases
do not apply to an unknown family under SKIP is the model's reading of R124 and R128 against the wording of R122(f)
(assumption 8, DEDUCED). -/
def Obligations.MalformedExactlyAsListed : Prop :=
  ∀ (policy : EcsUnknownFamily) (rd : Nat → Byte) (len p : Nat), p < len →
    let code := (be16 rd p).toNat
    let olen := (be16 rd (p + 2)).toNat
    let family := (be16 rd (p + 4)).toNat
    let nb := ((rd (p + 6)).toNat + 7) / 8
    (parseOption policy rd len p = .malformed ↔
      len - p < 4 ∨ olen > len - p - 4 ∨
      (code = 8 ∧ (olen < 4 ∨
        (family ≠ 1 ∧ family ≠ 2 ∧ policy = .stop) ∨
        (family = 1 ∧ (nb > 4 ∨ nb > olen - 4)) ∨
        (family = 2 ∧ (nb > 16 ∨ nb > olen - 4)))))

/-- R124: under SKIP an ECS option of another family is passed through like a non-ECS option; under STOP it is malformed. So RDATA
that is one such option comes back unchanged, parsed to its end under SKIP and stopped at its header under STOP. That SKIP passes
it whatever its source-prefix calls for is the model's reading (assumption 8, DEDUCED). -/
def Obligations.UnknownFamilyStopsOrPasses : Prop :=
  (∀ (rd : Nat → Byte) (len p : Nat),
    (be16 rd p).toNat = 8 → 4 ≤ (be16 rd (p + 2)).toNat → p + 4 + (be16 rd (p + 2)).toNat ≤ len →
    (be16 rd (p + 4)).toNat ≠ 1 → (be16 rd (p + 4)).toNat ≠ 2 →
    parseOption .stop rd len p = .malformed ∧
    parseOption .skip rd len p = .passThrough (be16 rd (p + 2)).toNat) ∧
  (∀ (ks : KeySchedule) (f0 f1 sp scope : Byte) (data : List Byte), 4 + data.length < 65536 →
    (f0 ++ f1).toNat ≠ 1 → (f0 ++ f1).toNat ≠ 2 →
    let olen := 4 + data.length
    let b : List Byte := [0, 8, BitVec.ofNat 8 (olen / 256), BitVec.ofNat 8 olen, f0, f1, sp, scope] ++ data
    optRewrite .skip ks b = ⟨b, 4 + olen, false, 0⟩ ∧ optRewrite .stop ks b = ⟨b, 0, true, 0⟩)

/-- R131: the parse of an option reads its seven bytes before the scope-prefix, and no other. -/
def Obligations.ScopePrefixIsNeverRead : Prop :=
  ∀ (policy : EcsUnknownFamily) (rd rd' : Nat → Byte) (len p : Nat), (∀ i, p ≤ i → i < p + 7 → rd i = rd' i) →
    parseOption policy rd len p = parseOption policy rd' len p

/-- R118, R127, R133(a): RDATA in which no option has code 8 comes back unchanged, with no option counted; and RDATA that is one
option of another code with exactly its olen data bytes is parsed to its end, whatever the code and the data. -/
def Obligations.NoEcsOptionMeansNoChange : Prop :=
  ∀ (policy : EcsUnknownFamily) (ks : KeySchedule),
    (∀ b : List Byte, (∀ p ∈ optionCursors policy b, (be16 (readList b) p).toNat ≠ 8) →
      (optRewrite policy ks b).bytes = b ∧ (optRewrite policy ks b).count = 0) ∧
    (∀ (c0 c1 : Byte) (data : List Byte), (c0 ++ c1).toNat ≠ 8 → data.length < 65536 →
      let b : List Byte := [c0, c1, BitVec.ofNat 8 (data.length / 256), BitVec.ofNat 8 data.length] ++ data
      optRewrite policy ks b = ⟨b, 4 + data.length, false, 0⟩)

/-- R120, R121, R125, R126, R127, R133(b), C5: RDATA that is one ECS option with as many address bytes as its source-prefix calls
for, at most its family's width, and any bytes behind them: the address bytes become the first bytes of the encryption of the
zero-padded address, which for IPv4 is repeated four times; nothing else changes, the bytes behind the address included, and the
parse ends behind the whole option. At family 1, source-prefix 24 and no byte behind the address this is R133(b). -/
def Obligations.SingleEcsOptionRewrite : Prop :=
  ∀ (policy : EcsUnknownFamily) (ks : KeySchedule) (sp scope : Byte) (addr trailing : List Byte),
    addr.length = (sp.toNat + 7) / 8 → 4 + addr.length + trailing.length < 65536 →
    let olen := 4 + addr.length + trailing.length
    let header : Byte → List Byte := fun family =>
      [0, 8, BitVec.ofNat 8 (olen / 256), BitVec.ofNat 8 olen, 0, family, sp, scope]
    (addr.length ≤ 4 →
      let out := aesEncrypt ks (Vector.ofFn fun i : Fin 16 => addr.getD (i.val % 4) 0)
      optRewrite policy ks (header 1 ++ addr ++ trailing) =
        ⟨header 1 ++ out.toList.take addr.length ++ trailing, 4 + olen, false, 1⟩) ∧
    (addr.length ≤ 16 →
      let out := aesEncrypt ks (Vector.ofFn fun i : Fin 16 => addr.getD i.val 0)
      optRewrite policy ks (header 2 ++ addr ++ trailing) =
        ⟨header 2 ++ out.toList.take addr.length ++ trailing, 4 + olen, false, 1⟩)

/-- R122(b), R123, R127, R128, R133(c): behind RDATA that parses to its end the parse goes on as if what follows stood alone: the
rewrite of the two is the two rewrites one behind the other. So a last option whose declared length exceeds what is left leaves
everything before it rewritten as if alone and everything from its header on unchanged, and parsing stops there. -/
def Obligations.RewriteGoesOnBehindParsedRdata : Prop :=
  ∀ (policy : EcsUnknownFamily) (ks : KeySchedule) (front tail : List Byte),
    (optRewrite policy ks front).malformed = false →
    (let f := optRewrite policy ks front
     let t := optRewrite policy ks tail
     optRewrite policy ks (front ++ tail) = ⟨f.bytes ++ t.bytes, front.length + t.stop, t.malformed, f.count + t.count⟩) ∧
    (4 ≤ tail.length → tail.length - 4 < (be16 (readList tail) 2).toNat →
      optRewrite policy ks (front ++ tail) =
        ⟨(optRewrite policy ks front).bytes ++ tail, front.length, true, (optRewrite policy ks front).count⟩)

/-- R132: rewriting BUF in place gives the bytes, the report and nothing else that rewriting a copy of BUF[0..L) and storing it
back gives. -/
def Obligations.InPlaceRewriteIsExact : Prop :=
  ∀ (policy : EcsUnknownFamily) (s : State) (len : BitVec 16),
    let r := optRewrite policy s.ks (s.bufBytes 0 len.toNat)
    let q := inPlaceLoop policy len.toNat (len.toNat / 4 + 1) s 0 0
    q.1 = { s with buf := q.1.buf } ∧ (∀ a : Nat, q.1.bufByte a = (s.setBufBytes 0 r.bytes).bufByte a) ∧
    q.2 = (r.stop, r.malformed, r.count)

/-! ### The slave port (R41 to R50, R155, R157) -/

/-- R46, R155: a misaligned access gets ERROR and changes no state. -/
def Obligations.MisalignedAccessGetsError : Prop :=
  ∀ (s : State) (addr : BusAddr) (v : Word), addr.extractLsb' 0 2 ≠ 0 →
    s.hostAccess (.read addr) = { s with response := some .error } ∧
    s.hostAccess (.write addr v) = { s with response := some .error }

/-- R47, R155: an aligned access to a reserved offset gets ERROR and changes no state, WERR included. -/
def Obligations.ReservedOffsetGetsError : Prop :=
  ∀ (s : State) (addr : BusAddr) (v : Word), addr.toNat % 4 = 0 → 0x00030 ≤ addr.toNat → addr.toNat ≤ 0x0FFFF →
    s.hostAccess (.read addr) = { s with response := some .error } ∧
    s.hostAccess (.write addr v) = { s with response := some .error }

/-- R23, R45, R47: every target is found at its address, every aligned address outside the reserved range has a target, and every
aligned address inside it is reserved. -/
def Obligations.AddressMapIsExact : Prop :=
  (∀ t : Target, decodeAddr t.addr = .ok t) ∧
  (∀ addr : BusAddr, addr.toNat % 4 = 0 → (addr.toNat < 0x30 ∨ 0x10000 ≤ addr.toNat) →
    ∃ t : Target, t.addr = addr ∧ decodeAddr addr = .ok t) ∧
  (∀ addr : BusAddr, addr.toNat % 4 = 0 → 0x30 ≤ addr.toNat → addr.toNat < 0x10000 → decodeAddr addr = .error .reserved)

/-- R36: a write to CMD while BUSY = 0 is accepted, whatever the word; while BUSY = 1 it is dropped and sets WERR. -/
def Obligations.CommandAcceptance : Prop :=
  ∀ (s : State) (v : Word), s.hostAccess (.write 0x00000 v) =
    if s.busy = false then { s with cur := v, err := 0, werr := false, busy := true, response := some .okay }
    else { s with werr := true, response := some .okay }

/-- R50, R52: a write of BUF word j while BUSY = 0 stores its four bytes, most significant first, and changes nothing
else. -/
def Obligations.BufWordWriteStoresFourBytes : Prop :=
  ∀ (s : State) (j : Fin 16384) (v : Word), s.busy = false →
    let t := s.hostAccess (.write (BitVec.ofNat 17 (0x10000 + 4 * j.val)) v)
    t = { s with buf := t.buf, response := some .okay } ∧
    ∀ a : Nat, t.bufByte a =
      if a = 4 * j.val then v.extractLsb' 24 8
      else if a = 4 * j.val + 1 then v.extractLsb' 16 8
      else if a = 4 * j.val + 2 then v.extractLsb' 8 8
      else if a = 4 * j.val + 3 then v.extractLsb' 0 8
      else s.bufByte a

/-- R26, R49, R52: a write of DINk while BUSY = 0 stores its four bytes in word k of DIN and changes nothing else. -/
def Obligations.DinWriteStoresItsWord : Prop :=
  ∀ (s : State) (k : Fin 4) (v : Word), s.busy = false →
    let t := s.hostAccess (.write (BitVec.ofNat 17 (0x10 + 4 * k.val)) v)
    t = { s with din := t.din, response := some .okay } ∧
    ∀ i : Fin 16, t.din[i] = if i.val / 4 = k.val then v.extractLsb' (24 - 8 * (i.val % 4)) 8 else s.din[i]

/-- R55, R49, R50: while BUSY = 0, a read of a DIN or BUF word returns what was just written there. -/
def Obligations.ReadReturnsTheLastWrite : Prop :=
  ∀ (s : State) (addr : BusAddr) (v : Word), s.busy = false → addr.toNat % 4 = 0 →
    ((0x10 ≤ addr.toNat ∧ addr.toNat < 0x20) ∨ 0x10000 ≤ addr.toNat) →
    ((s.hostAccess (.write addr v)).hostAccess (.read addr)).response = some (.okayData v)

/-- R41, R49: a write to a read-only register gets OKAY and changes nothing, WERR included, busy or not. -/
def Obligations.ReadOnlyWritesAreIgnored : Prop :=
  ∀ (s : State) (addr : BusAddr) (v : Word), addr.toNat % 4 = 0 →
    ((0x4 ≤ addr.toNat ∧ addr.toNat < 0x10) ∨ (0x20 ≤ addr.toNat ∧ addr.toNat < 0x30)) →
    s.hostAccess (.write addr v) = { s with response := some .okay }

/-- R48: a read changes nothing but the port's response and the model's draw counter; with BUSY = 0 it takes no draw, and
may be repeated with the same result. -/
def Obligations.ReadsHaveNoSideEffect : Prop :=
  ∀ (s : State) (addr : BusAddr),
    let t := s.hostAccess (.read addr)
    t = { s with response := t.response, draws := t.draws } ∧
    (s.busy = false → t.draws = s.draws ∧ t.hostAccess (.read addr) = t)

/-- R24 to R29, R48, R50: with BUSY = 0 each read returns the value its rule gives, field by field, reserved bits zero. -/
def Obligations.IdleReadsAreExact : Prop :=
  ∀ s : State, s.busy = false →
    (s.hostAccess (.read 0x00000)).response = some (.okayData 0) ∧
    (∃ w, (s.hostAccess (.read 0x00004)).response = some (.okayData w) ∧ w.getLsbD 0 = s.busy ∧ w.getLsbD 1 = s.keyValid ∧
      w.getLsbD 2 = s.werr ∧ w.getLsbD 3 = false ∧ w.extractLsb' 4 4 = s.err ∧ w.extractLsb' 8 24 = 0) ∧
    (∃ w, (s.hostAccess (.read 0x00008)).response = some (.okayData w) ∧ w.extractLsb' 0 16 = s.stopOff ∧
      w.getLsbD 16 = s.malformed ∧ w.extractLsb' 17 15 = 0) ∧
    (∃ w, (s.hostAccess (.read 0x0000C)).response = some (.okayData w) ∧ w.extractLsb' 0 16 = s.count ∧
      w.extractLsb' 16 16 = 0) ∧
    (∀ k m : Fin 4, ∃ w, (s.hostAccess (.read (BitVec.ofNat 17 (0x10 + 4 * k.val)))).response = some (.okayData w) ∧
      w.extractLsb' (24 - 8 * m.val) 8 = s.din[4 * k.val + m.val]) ∧
    (∀ k m : Fin 4, ∃ w, (s.hostAccess (.read (BitVec.ofNat 17 (0x20 + 4 * k.val)))).response = some (.okayData w) ∧
      w.extractLsb' (24 - 8 * m.val) 8 = s.dout[4 * k.val + m.val]) ∧
    (∀ (j : Fin 16384) (m : Fin 4), ∃ w,
      (s.hostAccess (.read (BitVec.ofNat 17 (0x10000 + 4 * j.val)))).response = some (.okayData w) ∧
      w.extractLsb' (24 - 8 * m.val) 8 = s.bufByte (4 * j.val + m.val))

/-- R42, R44: while BUSY = 1 every read of a register or a BUF word gets OKAY with some data, also where that data is a draw; and what
stays exact while BUSY = 1: CMD, DIN, and of STATUS the bits BUSY, WERR and ERR, and KEY_VALID but while
KEY_LOAD runs. ERR reads 0 by the invariant of the model's states. That a word with OP = 1 and RSVD not 0 is no
KEY_LOAD here is the model's reading (assumption 14, DEDUCED). -/
def Obligations.BusyReadsThatStayExact : Prop :=
  ∀ s : State, Inv s → s.busy = true →
    (∀ addr : BusAddr, addr.toNat % 4 = 0 → (addr.toNat < 0x30 ∨ 0x10000 ≤ addr.toNat) →
      ∃ w, (s.hostAccess (.read addr)).response = some (.okayData w)) ∧
    (s.hostAccess (.read 0x00000)).response = some (.okayData 0) ∧
    (∀ k : Fin 4, (s.hostAccess (.read (BitVec.ofNat 17 (0x10 + 4 * k.val)))).response =
      some (.okayData (blockWord s.din k))) ∧
    (∃ w, (s.hostAccess (.read 0x00004)).response = some (.okayData w) ∧ w.getLsbD 0 = true ∧ w.getLsbD 2 = s.werr ∧
      w.getLsbD 3 = false ∧ w.extractLsb' 4 4 = 0 ∧ w.extractLsb' 8 24 = 0 ∧
      (s.cur &&& 0x0000FFFF ≠ 1 → w.getLsbD 1 = s.keyValid))

/-- R43: no host access tells two key schedules apart: a run of accesses under another KS gets the same responses and leaves
the same state, but for KS. This compares two runs: the draws that reads return while BUSY = 1, and those in BUF bytes that nothing
has written, are equal in both because the model takes them from its counters (assumptions 2 and 1, DESIGN CHOICE), so it says
nothing of a block whose draws depend on the key. -/
def Obligations.KeyScheduleIsNotReadable : Prop :=
  ∀ (s : State) (ks : KeySchedule) (accesses : List BusAccess),
    hostAccesses { s with ks := ks } accesses = { hostAccesses s accesses with ks := ks } ∧
    (hostAccesses { s with ks := ks } accesses).response = (hostAccesses s accesses).response

/-- R51, R56: whatever the host does between the acceptance of a command and its core step, the command leaves the same
block. The bytes of BUF that nothing has written hold the same draws on both sides (assumption 1, DESIGN CHOICE). -/
def Obligations.HostCannotDisturbARunningCommand : Prop :=
  ∀ (s : State) (accesses : List BusAccess), s.busy = true →
    ∃ t t', coreStep s = .next t ∧ coreStep (hostAccesses s accesses) = .next t' ∧ SameBlock t t'

/-- R157, R160: once set, WERR falls only when a command word is accepted or at a reset event. The turns are the
model's (assumption 3). -/
def Obligations.WerrIsSticky : Prop :=
  ∀ s t : State, s.werr = true → step s = .next t → t.werr = false →
    (∃ v rest, s.turns = .host (.write 0x00000 v) :: rest ∧ s.busy = false) ∨ (∃ rest, s.turns = .reset :: rest)

/-! ### The whole machine -/

/-- R25, R27, R29, R30, R40, R77, R151: every step keeps the invariant. -/
def Obligations.EveryStepKeepsTheInvariant : Prop :=
  ∀ s t : State, Inv s → step s = .next t → Inv t

/-- R40: the invariant holds right after reset. -/
def Obligations.InvariantHoldsAtReset : Prop := Inv State.reset

/-- R40, R180, R181: a reset event puts every piece of state to its reset value and gives every byte of BUF a fresh draw. The
turns and counters that it keeps are the model's (assumptions 1 to 3 and 12). -/
def Obligations.ResetEventResetsEverything : Prop :=
  ∀ (s : State) (rest : List Turn), s.turns = .reset :: rest → ∃ t, step s = .next t ∧
    t.cur = 0 ∧ t.busy = false ∧ t.keyValid = false ∧ t.werr = false ∧ t.err = 0 ∧
    (∀ i : Fin 44, t.ks[i] = 0) ∧ (∀ i : Fin 16, t.din[i] = 0) ∧ (∀ i : Fin 16, t.dout[i] = 0) ∧
    t.stopOff = 0 ∧ t.malformed = false ∧ t.count = 0 ∧
    (∀ a : Nat, t.bufByte a = Config.bufDraw (s.resets + 1) a) ∧ t.turns = rest

/-- R77, R30: KS and KEY_VALID change only in a core step of KEY_LOAD or in a reset event. The turns are the model's
(assumption 3). -/
def Obligations.KeyChangesOnlyByKeyLoadOrReset : Prop :=
  ∀ s t : State, step s = .next t → (t.ks ≠ s.ks ∨ t.keyValid ≠ s.keyValid) →
    (s.busy = true ∧ s.cur &&& 0x0000FFFF = 1 ∧ (s.turns = [] ∨ ∃ rest, s.turns = .core :: rest)) ∨
    (∃ rest, s.turns = .reset :: rest)

/-- R26, R27, R28, R29: outside a reset event, DOUT changes only in a core step of ENCRYPT_BLOCK, ANON_V4 or ANON_V6 with a key;
RDSTAT and ECSCNT only in one of OPT_REWRITE with a key; a byte of DIN only by a host write, while BUSY = 0, to the DIN word that
holds it; a byte of BUF only by a host write, while BUSY = 0, to the BUF word that holds it, or below LEN in a core step of
OPT_REWRITE with a key. The turns are the model's (assumption 3). -/
def Obligations.DataChangesOnlyAsNamed : Prop :=
  ∀ s t : State, step s = .next t → (∀ rest, s.turns ≠ .reset :: rest) →
    let coreSteps : Prop := s.busy = true ∧ s.keyValid = true ∧ (s.turns = [] ∨ ∃ rest, s.turns = .core :: rest)
    let hostWrites : BusAddr → Prop := fun addr => s.busy = false ∧ ∃ v rest, s.turns = .host (.write addr v) :: rest
    (t.dout ≠ s.dout → coreSteps ∧
      (s.cur &&& 0x0000FFFF = 2 ∨ s.cur &&& 0x0000FFFF = 3 ∨ s.cur &&& 0x0000FFFF = 4)) ∧
    ((t.stopOff ≠ s.stopOff ∨ t.malformed ≠ s.malformed ∨ t.count ≠ s.count) → coreSteps ∧ s.cur &&& 0x0000FFFF = 5) ∧
    (∀ i : Fin 16, t.din[i] ≠ s.din[i] → hostWrites (BitVec.ofNat 17 (0x10 + 4 * (i.val / 4)))) ∧
    (∀ a : Nat, t.bufByte a ≠ s.bufByte a →
      (coreSteps ∧ s.cur &&& 0x0000FFFF = 5 ∧ a < (s.cur.extractLsb' 16 16).toNat) ∨
      (a < 65536 ∧ hostWrites (BitVec.ofNat 17 (0x10000 + 4 * (a / 4)))))

/-- R57, R71, R190: a POLL that starts while a command runs ends: after `early` reads, the core's step and one read more, that
read finds BUSY = 0 and STATUS exact. The turns are the model's (assumption 3). -/
def Obligations.PollEndsWithBusyClear : Prop :=
  ∀ (s : State) (early : Nat) (rest : List Turn), s.busy = true → s.turns = pollTurns early ++ rest →
    ∃ t, Host.Core.run core (early + 2) s = .next t ∧ t.busy = false ∧ t.turns = rest ∧
      t.response = some (.okayData t.status) ∧ t.status.getLsbD 0 = false

/-- R71: the word that each command mnemonic writes to CMD. -/
def Obligations.MnemonicsWriteTheirWords : Prop :=
  ∀ (early n : Nat), n < 65536 →
    HostLine.turns early .nop = [.host (.write 0 0x00000000)] ∧
    HostLine.turns early (.keyLoad n) = [.host (.write 0 (BitVec.ofNat 32 (n <<< 16 ||| 0x1)))] ∧
    HostLine.turns early .encryptBlock = [.host (.write 0 0x00000002)] ∧
    HostLine.turns early .anonV4 = [.host (.write 0 0x00000003)] ∧
    HostLine.turns early .anonV6 = [.host (.write 0 0x00000004)] ∧
    HostLine.turns early (.optRewrite n) = [.host (.write 0 (BitVec.ofNat 32 (n <<< 16 ||| 0x5)))]
end

