-- ==== Sys2Proof/Laws/PerInstr.lean ====
section
/-! SUPPORT. For every instruction: its command word lies in its own row of the opcode table (R64), mask 0x0000FFFF. -/

namespace Sys2Proof.Laws.TableRow

/-- The word of an instruction matches its row's mask and match value, and carries its LEN in bits 31:16. -/
def Statement (i : Instr) : Prop := encode i &&& 0x0000FFFF = i.rowMatch ∧ lenField (encode i) = i.len

theorem row_of_fields (len : BitVec 16) (op : BitVec 4) :
    ((len ++ (0 : BitVec 12) ++ op : Word) &&& 0x0000FFFF = op.setWidth 32) ∧
      lenField (len ++ (0 : BitVec 12) ++ op : Word) = len := by
  constructor
  · apply BitVec.eq_of_getLsbD_eq
    intro i hi
    rw [BitVec.getLsbD_and, BitVec.getLsbD_append, BitVec.getLsbD_append, BitVec.getLsbD_setWidth]
    interval_cases i <;> simp
  · apply BitVec.eq_of_getLsbD_eq
    intro i hi
    simp only [lenField, BitVec.getLsbD_extractLsb', BitVec.getLsbD_append]
    simp [hi, show ¬ (16 + i < 4) by omega, show ¬ (16 + i - 4 < 12) by omega, show 16 + i - 4 - 12 = i by omega]

theorem nop (len : BitVec 16) : Statement (.nop len) := row_of_fields len 0x0
theorem keyLoad (len : BitVec 16) : Statement (.keyLoad len) := row_of_fields len 0x1
theorem encryptBlock (len : BitVec 16) : Statement (.encryptBlock len) := row_of_fields len 0x2
theorem anonV4 (len : BitVec 16) : Statement (.anonV4 len) := row_of_fields len 0x3
theorem anonV6 (len : BitVec 16) : Statement (.anonV6 len) := row_of_fields len 0x4
theorem optRewrite (len : BitVec 16) : Statement (.optRewrite len) := row_of_fields len 0x5

end Sys2Proof.Laws.TableRow
end

