-- ==== Sys2Proof/Tests/Slice0.lean ====
section
/-! SUPPORT. Tests of the model against the spec's own vectors (95_test_vectors.md) and worked examples, the smoke test of the
well-formedness checks, and for every statement with hypotheses a state that meets them. -/

-- One theorem at a time: the tests that the kernel evaluates would otherwise each hold a thread and its memory.
set_option Elab.async false

namespace Sys2Proof.Tests

open Sys2Proof.Machine Sys2Proof.Safety

/-! ### Helpers -/

/-- KA, the key of FIPS-197 C.1 (95_test_vectors.md). -/
def keyA : Block := #v[0x00, 0x01, 0x02, 0x03, 0x04, 0x05, 0x06, 0x07, 0x08, 0x09, 0x0a, 0x0b, 0x0c, 0x0d, 0x0e, 0x0f]

/-- KB, the key of FIPS-197 A.1 (95_test_vectors.md). -/
def keyB : Block := #v[0x2b, 0x7e, 0x15, 0x16, 0x28, 0xae, 0xd2, 0xa6, 0xab, 0xf7, 0x15, 0x88, 0x09, 0xcf, 0x4f, 0x3c]

/-- The key schedule of KA as V-KE-1 lists it. -/
def scheduleA : KeySchedule := #v[
  0x00010203, 0x04050607, 0x08090a0b, 0x0c0d0e0f, 0xd6aa74fd, 0xd2af72fa, 0xdaa678f1, 0xd6ab76fe,
  0xb692cf0b, 0x643dbdf1, 0xbe9bc500, 0x6830b3fe, 0xb6ff744e, 0xd2c2c9bf, 0x6c590cbf, 0x0469bf41,
  0x47f7f7bc, 0x95353e03, 0xf96c32bc, 0xfd058dfd, 0x3caaa3e8, 0xa99f9deb, 0x50f3af57, 0xadf622aa,
  0x5e390f7d, 0xf7a69296, 0xa7553dc1, 0x0aa31f6b, 0x14f9701a, 0xe35fe28c, 0x440adf4d, 0x4ea9c026,
  0x47438735, 0xa41c65b9, 0xe016baf4, 0xaebf7ad2, 0x549932d1, 0xf0855768, 0x1093ed9c, 0xbe2c974e,
  0x13111d7f, 0xe3944a17, 0xf307a78b, 0x4d2b30c5]

/-- The reset state with KA loaded. -/
def keyed : State := { State.reset with keyValid := true, ks := scheduleA }

/-- A command word accepted, the core to move. -/
def running (s : State) (w : Word) : State := placeCommand s w

/-- The state after one step, where it is a next state. -/
def after (s : State) : State :=
  match step s with
  | .next t => t
  | .fault _ => s
  | .refused _ => s

/-- DIN holding four words. -/
def dinOf (w0 w1 w2 w3 : Word) : Block :=
  setBlockWord (setBlockWord (setBlockWord (setBlockWord zeroBlock 0 w0) 1 w1) 2 w2) 3 w3

/-- V-OPT-2: one ECS option, IPv4 /24, 192.0.2.0. -/
def optV4 : List Byte := [0x00, 0x08, 0x00, 0x07, 0x00, 0x01, 0x18, 0x00, 0xc0, 0x00, 0x02]

/-- V-OPT-1: one option of code 10. -/
def optCookie : List Byte := [0x00, 0x0a, 0x00, 0x08, 0x01, 0x02, 0x03, 0x04, 0x05, 0x06, 0x07, 0x08]

/-- V-OPT-8: an ECS option of family 3, then V-OPT-2. -/
def optUnknown : List Byte := [0x00, 0x08, 0x00, 0x07, 0x00, 0x03, 0x18, 0x00, 0xc0, 0x00, 0x02] ++ optV4

/-! ### Decoding: the words of R64 and R71, the reserved words of R66 and R67 -/

theorem test_decode_nop : decode 0x00000000 = .ok (.nop 0) := by decide
theorem test_decode_nop_ignored_len : decode 0xFFFF0000 = .ok (.nop 0xFFFF) := by decide
theorem test_decode_keyLoad : decode 0b00000000000100000000000000000001 = .ok (.keyLoad 16) := by decide
theorem test_decode_encryptBlock : decode 0b00010010001101000000000000000010 = .ok (.encryptBlock 0x1234) := by decide
theorem test_decode_anonV4 : decode 0b00000000000000000000000000000011 = .ok (.anonV4 0) := by decide
theorem test_decode_anonV6 : decode 0b00000000000000000000000000000100 = .ok (.anonV6 0) := by decide
theorem test_decode_optRewrite : decode 0b00000000000010110000000000000101 = .ok (.optRewrite 11) := by decide
theorem test_decode_reserved_field : decode 0x00000012 = .error .reservedField := by decide
theorem test_decode_reserved_op : decode 0x00000006 = .error .reservedOpcode := by decide
theorem test_encode_optRewrite : encode (.optRewrite 29) = 0x001D0005 := by decide
theorem test_decodeTableWord : decodeTableWord 32 0x00100001 = some (.keyLoad 16) := by decide
theorem test_decodeTableWord_short : decodeTableWord 16 0x0005 = some (.optRewrite 0) := by decide

/-! ### Well-formedness: each check refuses an ill-formed term -/

theorem test_wordLegal_accepts : wordLegal 0xFFFF0005 = true := by decide
theorem test_wordLegal_refuses_rsvd : wordLegal 0x00000012 = false := by decide
theorem test_wordLegal_refuses_rsvd_top : wordLegal 0x00008002 = false := by decide
theorem test_wordLegal_refuses_op : wordLegal 0x00000006 = false := by decide
theorem test_wellFormed_instr : (Instr.keyLoad 0xFFFF).wellFormed = true := by decide
theorem test_line_refuses_address : (HostLine.rd 0x20000).wellFormed = false := by decide
theorem test_line_refuses_write_address : (HostLine.wr 0x20000 0).wellFormed = false := by decide
theorem test_line_refuses_value : (HostLine.wr 0x10 0x100000000).wellFormed = false := by decide
theorem test_line_refuses_len : (HostLine.keyLoad 65536).wellFormed = false := by decide
theorem test_line_refuses_long_rdata : (HostLine.optRewrite 65536).wellFormed = false := by decide
theorem test_line_refuses_byte : (HostLine.wrbuf [0, 256]).wellFormed = false := by decide
theorem test_line_refuses_rdbuf : (HostLine.rdbuf 65537).wellFormed = false := by decide
theorem test_line_refuses_short_key : (HostLine.setkey [1, 2, 3]).wellFormed = false := by decide
theorem test_line_refuses_key_byte : (HostLine.setkey (List.replicate 15 0 ++ [256])).wellFormed = false := by decide

/-! ### AES-128: R74, R91, R96, V-KE-1, V-KE-2, V-AES-1, V-AES-2 -/

/-- R91: the table is the affine map of the inverse, and the inverse is one. -/
theorem test_sbox_is_affine_of_inverse : ∀ n : Fin 256, sbox (BitVec.ofFin n) = affine (gfInv (BitVec.ofFin n)) ∧
    (n ≠ 0 → gmul (BitVec.ofFin n) (gfInv (BitVec.ofFin n)) = 1) := by decide +kernel

theorem test_sbox_spots : sbox 0x00 = 0x63 ∧ sbox 0x01 = 0x7C ∧ sbox 0x53 = 0xED ∧ sbox 0xFF = 0x16 := by decide
theorem test_rcon_doubles : ∀ j : Fin 9, rcon (j.val + 2) = xtime (rcon (j.val + 1)) := by decide
theorem test_gf : xtime 0x57 = 0xAE ∧ xtime 0x80 = 0x1B ∧ gmul 0x57 0x83 = 0xC1 ∧ gmul 0x57 0x13 = 0xFE := by decide
theorem test_keyExpand_A : keyExpand keyA = scheduleA := by decide +kernel
theorem test_keyExpand_B : (keyExpand keyB)[40] = 0xd014f9a8 ∧ (keyExpand keyB)[43] = 0xb6630ca6 := by decide +kernel

/-- Round 1 of V-AES-3, after ShiftRows and after MixColumns. -/
theorem test_round_steps :
    shiftRows (dinOf 0x63cab704 0x0953d051 0xcd60e0e7 0xba70e18c) = dinOf 0x6353e08c 0x0960e104 0xcd70b751 0xbacad0e7 ∧
    mixColumns (dinOf 0x6353e08c 0x0960e104 0xcd70b751 0xbacad0e7) = dinOf 0x5f726415 0x57f5bc92 0xf7be3b29 0x1db9f91a := by
  decide +kernel

/-- V-AES-1, FIPS-197 appendix B. -/
theorem test_aes_B : aesEncrypt (keyExpand keyB) (dinOf 0x3243f6a8 0x885a308d 0x313198a2 0xe0370734) =
    dinOf 0x3925841d 0x02dc09fb 0xdc118597 0x196a0b32 := by decide +kernel

/-! ### One step of each command -/

/-- R76's worked example: STATUS = 0x34, NOP accepted and run, STATUS = 0. -/
theorem test_nop : (after (running { State.reset with err := 3, werr := true } 0)).status = 0 := by decide

/-- V-KL-1, on a BUF that holds KA. -/
theorem test_keyLoad :
    let t := after (running (State.reset.setBufBytes 0 keyA.toList) 0x00100001)
    t.ks = scheduleA ∧ t.keyValid = true ∧ t.err = 0 ∧ t.busy = false := by decide +kernel

/-- V-KL-5: LEN = 12 loses the key that was loaded. -/
theorem test_keyLoad_wrong_length :
    let t := after (running keyed 0x000C0001)
    t.ks = zeroSchedule ∧ t.keyValid = false ∧ t.err = 1 := by decide

/-- V-AES-2 through V-CMD-6: LEN is ignored. -/
theorem test_encryptBlock :
    (after (running { keyed with din := dinOf 0x00112233 0x44556677 0x8899aabb 0xccddeeff } 0x12340002)).dout =
      dinOf 0x69c4e0d8 0x6a7b0430 0xd8cdb780 0x70b4c55a := by decide +kernel

/-- V-AES-7. -/
theorem test_encryptBlock_no_key : (after (running State.reset 0x00000002)).status = 0x00000020 := by decide

/-- V-A4-7: DIN1..3 are ignored and DOUT1..3 cleared. -/
theorem test_anonV4 :
    (after (running { keyed with din := dinOf 0xC0000201 0xFFFFFFFF 0xFFFFFFFF 0xFFFFFFFF, dout := keyA } 0x00000003)).dout =
      dinOf 0xE6C0AB0A 0 0 0 := by decide +kernel

/-- V-A6-1. -/
theorem test_anonV6 :
    (after (running { keyed with din := dinOf 0x20010db8 0 0 0x00000001 } 0x00000004)).dout =
      dinOf 0xea7211a7 0x62470e4d 0xf518c522 0x2f00c79f := by decide +kernel

/-- V-OPT-2 in BUF, with a byte behind LEN that stays. -/
theorem test_optRewrite :
    let t := after (running (keyed.setBufBytes 0 (optV4 ++ [0xEE])) 0x000B0005)
    t.bufBytes 8 4 = [0x43, 0xed, 0xd4, 0xEE] ∧ t.rdstat = 0x0000000B ∧ t.ecscnt = 1 ∧ t.err = 0 := by decide +kernel

/-- V-OPT-24. -/
theorem test_optRewrite_no_key :
    let t := after (running (State.reset.setBufBytes 0 optV4) 0x000B0005)
    t.bufBytes 0 11 = optV4 ∧ t.rdstat = 0 ∧ t.err = 2 := by decide

/-- V-CMD-5: ILLEGAL_OP beats NO_KEY. -/
theorem test_illegal_beats_no_key : (after (running State.reset 0x00000012)).err = 3 := by decide

/-! ### The option parser: the vectors of 95_test_vectors.md, section 2.5 -/

theorem test_opt_truncated :
    optRewrite .stop scheduleA [0x00, 0x08, 0x00, 0x10, 0x00, 0x01, 0x18, 0x00, 0xc0, 0x00, 0x02] =
      ⟨[0x00, 0x08, 0x00, 0x10, 0x00, 0x01, 0x18, 0x00, 0xc0, 0x00, 0x02], 0, true, 0⟩ := by decide
theorem test_opt_unknown_stop : optRewrite .stop scheduleA optUnknown = ⟨optUnknown, 0, true, 0⟩ := by decide
theorem test_opt_unknown_skip :
    let r := optRewrite .skip scheduleA optUnknown
    r.bytes.drop 19 = [0x43, 0xed, 0xd4] ∧ r.stop = 22 ∧ r.malformed = false ∧ r.count = 1 := by decide +kernel
theorem test_opt_too_wide :
    (optRewrite .stop scheduleA [0x00, 0x08, 0x00, 0x09, 0x00, 0x01, 0x21, 0x00, 0xc0, 0x00, 0x02, 0x01, 0xff]).malformed =
      true := by decide
theorem test_opt_short_data :
    (optRewrite .stop scheduleA [0x00, 0x08, 0x00, 0x06, 0x00, 0x01, 0x18, 0x00, 0xc0, 0x00]).malformed = true := by decide
theorem test_opt_v4_zero : (optRewrite .stop scheduleA [0x00, 0x08, 0x00, 0x04, 0x00, 0x01, 0x00, 0x00]).count = 1 := by
  decide +kernel
theorem test_opt_byte_order : (optRewrite .stop scheduleA [0x08, 0x00, 0x00, 0x04, 0x00, 0x01, 0x18, 0x00]).count = 0 := by
  decide
theorem test_opt_empty : optRewrite .stop scheduleA [] = ⟨[], 0, false, 0⟩ := by decide
theorem test_opt_one_byte : optRewrite .stop scheduleA [0x00] = ⟨[0x00], 0, true, 0⟩ := by decide
/-- V-OPT-3: IPv6 /56. -/
theorem test_opt_v6 :
    (optRewrite .stop scheduleA
      [0x00, 0x08, 0x00, 0x0b, 0x00, 0x02, 0x38, 0x00, 0x20, 0x01, 0x0d, 0xb8, 0xab, 0xcd, 0x12]).bytes.drop 8 =
      [0x77, 0xcc, 0xa8, 0xbb, 0xf0, 0xf3, 0x94] := by decide +kernel
/-- V-OPT-12: the byte behind the address stays. -/
theorem test_opt_trailing_byte :
    (optRewrite .stop scheduleA
      [0x00, 0x08, 0x00, 0x08, 0x00, 0x01, 0x18, 0x00, 0xc0, 0x00, 0x02, 0xee]).bytes.drop 8 = [0x43, 0xed, 0xd4, 0xee] := by
  decide +kernel

/-! ### The slave port: section 2.6 -/

/-- V-BUS-1. -/
theorem test_bus_misaligned : State.reset.hostAccess (.read 0x00002) = { State.reset with response := some .error } := by decide
/-- V-BUS-2. -/
theorem test_bus_reserved : State.reset.hostAccess (.write 0x00040 1) = { State.reset with response := some .error } := by decide
/-- V-BUS-4. -/
theorem test_bus_read_only :
    ((({ State.reset with dout := keyA } : State).hostAccess (.write 0x20 0x12345678)).hostAccess (.read 0x20)).response =
      some (.okayData 0x00010203) := by decide
/-- V-BUS-5. -/
theorem test_bus_buf_word :
    let t := State.reset.hostAccess (.write 0x10000 0x00010203)
    t.bufBytes 0 4 = [0x00, 0x01, 0x02, 0x03] ∧ (t.hostAccess (.read 0x10000)).response = some (.okayData 0x00010203) := by
  decide
/-- V-BUS-6 and V-BUS-9. -/
theorem test_bus_busy :
    let t := (State.reset.accept 2).hostAccess (.write 0x10 5)
    t.din = zeroBlock ∧ t.werr = true ∧ t.response = some .okay ∧
    (t.hostAccess (.read 0x4)).response = some (.okayData 0x00000005) := by decide
/-- R52: 192.0.2.1 in DIN0. -/
theorem test_bus_din_order : (State.reset.hostAccess (.write 0x10 0xC0000201)).dinV4 = #v[0xC0, 0x00, 0x02, 0x01] := by decide

/-! ### Host syntax: R70, R71 -/

theorem test_parse_write : parseLine "WR  0x10004, 0x04050607     ; WRBUF KA".toList = some [.wr 0x10004 0x04050607] := by decide
theorem test_parse_named : parseLine "RD BUFW(3)".toList = some [.rd 0x1000C] := by decide
theorem test_parse_refuses : parseLine "KEY_LOAD 65536".toList = none := by decide
theorem test_turns_wrbuf : HostLine.turns 0 (.wrbuf [1, 2, 3, 4, 5]) =
    [.host (.write 0x10000 0x01020304), .host (.write 0x10004 0x05000000)] := by decide

/-! ### The canonical form of memory -/

theorem test_store_keeps_order : Memory.wf (Memory.store (Memory.store (Memory.store [] 7 1) 3 2) 7 4) = true := by decide
theorem test_wf_refuses_unsorted : Memory.wf [(7, 1), (3, 2)] = false := by decide
theorem test_wf_refuses_outside : Memory.wf [(65536, 1)] = false := by decide
theorem test_unwritten_reads_as_draw (a : Nat) : State.reset.bufByte a = Config.bufDraw 0 a := rfl

/-! ### A state for the hypotheses of every statement -/

theorem reset_inv : Inv State.reset := ⟨by decide, by decide, by decide, by decide, by decide, by decide⟩

theorem wit_DecodeOfEncodeIsIdentity : (Instr.optRewrite 0xFFFF).wellFormed = true := by decide

theorem wit_IllegalWordRaisesIllegalOp :
    0x5 < (State.reset.accept 0x6).cur.extractLsb' 0 4 ∧ 0x5 < (State.reset.accept 0xF).cur.extractLsb' 0 4 ∧
    (State.reset.accept 0x10).cur.extractLsb' 4 12 ≠ 0 ∧ (State.reset.accept 0x8000).cur.extractLsb' 4 12 ≠ 0 := by decide

theorem wit_KeyUsingCommandsNeedAKey :
    (State.reset.accept 2).keyValid = false ∧ (State.reset.accept 2).cur &&& 0x0000FFFF = 2 ∧
    (State.reset.accept 3).cur &&& 0x0000FFFF = 3 ∧ (State.reset.accept 4).cur &&& 0x0000FFFF = 4 ∧
    (State.reset.accept 0xFFFF0005).cur &&& 0x0000FFFF = 5 := by decide

theorem wit_IgnoredLenNeverMatters :
    (0xFFFF0000 : Word) &&& 0x0000FFFF = (0x00000000 : Word) &&& 0x0000FFFF ∧ (0xFFFF0000 : Word) &&& 0x0000FFFF = 0 ∧
    (0xFFFF0002 : Word) &&& 0x0000FFFF = 2 ∧ (0xFFFF0003 : Word) &&& 0x0000FFFF = 3 ∧
    (0xFFFF0004 : Word) &&& 0x0000FFFF = 4 := by decide

theorem wit_StepRunsTheCommandInCur :
    decode State.reset.cur = .ok (.nop 0) ∧ State.reset.turns = [] ∧ State.reset.busy = false ∧
    (running State.reset 0).turns = .core :: [] ∧ (running State.reset 0).busy = true ∧
    decode (running State.reset 0).cur = .ok (.nop 0) ∧ (State.reset.accept 0).turns = [] ∧ (State.reset.accept 0).busy = true ∧
    ({ State.reset with turns := [.core] } : State).busy = false ∧
    decode (running State.reset 0x6).cur = .error .reservedOpcode ∧ decode (State.reset.accept 0x12).cur = .error .reservedField := by
  decide

theorem wit_StepMakesTheHostsAccess :
    ({ State.reset with turns := [.host (.read 0x4)] } : State).turns = .host (.read 0x4) :: [] := by decide

theorem wit_NopOnlyClearsStatus : (0xFFFF0000 : Word) &&& 0x0000FFFF = 0 := by decide

/-- With a key and without: for AnonV4Result, AnonV6Result and OptRewriteResult. -/
theorem wit_key_and_no_key : keyed.keyValid = true ∧ State.reset.keyValid = false := by decide

theorem wit_CommandsWriteOnlyTheirState (i : Instr) : ∃ t, exec i State.reset = .next t := by
  cases i with
  | keyLoad len => rcases execKeyLoad_cases len State.reset with ⟨-, h⟩ | ⟨-, h⟩ <;> exact ⟨_, h⟩
  | nop len => exact ⟨_, rfl⟩
  | encryptBlock len => exact ⟨_, rfl⟩
  | anonV4 len => exact ⟨_, rfl⟩
  | anonV6 len => exact ⟨_, rfl⟩
  | optRewrite len => exact ⟨_, rfl⟩

theorem wit_FailedCommandWritesOnlyErr :
    coreStep (State.reset.accept 0x6) = .next ((State.reset.accept 0x6).raise .illegalOp) ∧
    ((State.reset.accept 0x6).raise .illegalOp).err ≠ 0 := ⟨rfl, by decide⟩

theorem wit_FailedCommandWritesOnlyErr_keyLoad :
    coreStep (keyed.accept 0x1) = .next ((keyed.accept 0x1).dropKey.raise .invalidKeyLength) ∧
    ((keyed.accept 0x1).dropKey.raise .invalidKeyLength).err ≠ 0 := ⟨rfl, by decide⟩

theorem wit_FirstErrorWins : (State.reset.accept 0).busy = true := by decide

theorem wit_CommandsCannotFailWithAKey :
    keyed.keyValid = true ∧ wordLegal 0xFFFF0005 = true ∧ (0xFFFF0005 : Word) &&& 0x0000FFFF ≠ 1 := by decide

theorem wit_RepeatedCommandChangesNothing :
    (∀ len, Instr.encryptBlock 0 ≠ .optRewrite len) ∧ exec (.encryptBlock 0) State.reset = .next (State.reset.raise .noKey) :=
  And.intro (fun _ h => nomatch h) rfl

theorem wit_AnonV6PermutesAddresses : keyed.keyValid = true := by decide

/-- The states after each of the rounds 0..9 of R92. -/
def roundState (ks : KeySchedule) (input : Block) : Nat → Block
  | 0 => addRoundKey ks 0 input
  | n + 1 => addRoundKey ks (Fin.ofNat 11 (n + 1)) (mixColumns (shiftRows (subBytes (roundState ks input n))))

theorem wit_RoundStepsByRowAndColumn :
    (∃ st : Fin 10 → Block, st 0 = addRoundKey scheduleA 0 zeroBlock ∧ ∀ r : Fin 9, st r.succ =
      addRoundKey scheduleA r.succ.castSucc (mixColumns (shiftRows (subBytes (st r.castSucc))))) ∧ (0xFF : Byte) ≠ 0 := by
  refine ⟨⟨fun r => roundState scheduleA zeroBlock r.val, rfl, fun r => ?_⟩, by decide⟩
  have hr : Fin.ofNat 11 (r.val + 1) = r.succ.castSucc := Fin.ext (Nat.mod_eq_of_lt (by omega))
  simp only [Fin.val_succ, roundState, hr, Fin.val_castSucc]

/-- Both families at the ends of their widths. -/
theorem wit_RewriteIsFieldwise : 0 ≤ 4 ∧ 4 ≤ 4 ∧ 0 ≤ 16 ∧ 16 ≤ 16 ∧ 10 < optV4.length := by decide

/-- Source-prefix 0, 24 and 32 for IPv4, 56 and 128 for IPv6. -/
theorem wit_SingleEcsOptionRewrite :
    ([] : List Byte).length = ((0 : Byte).toNat + 7) / 8 ∧ [0xc0, 0x00, 0x02].length = ((24 : Byte).toNat + 7) / 8 ∧
    [0xc0, 0x00, 0x02, 0x01].length = ((32 : Byte).toNat + 7) / 8 ∧ [0xc0, 0x00, 0x02, 0x01].length ≤ 4 ∧
    [0x20, 0x01, 0x0d, 0xb8, 0x00, 0x01, 0x00].length = ((56 : Byte).toNat + 7) / 8 ∧
    (List.replicate 16 (0 : Byte)).length = ((128 : Byte).toNat + 7) / 8 ∧ (List.replicate 16 (0 : Byte)).length ≤ 16 ∧
    4 + (List.replicate 16 (0 : Byte)).length + [0x00, 0xff].length < 65536 := by decide

theorem wit_FieldsAreEcsAddressBytes : (8, 3, Family.v4) ∈ ecsFields .stop optV4 := by decide

theorem wit_StoppingLeavesTheTail : (optRewrite .stop scheduleA [0x00]).malformed = true := by decide

/-- One option for each way to be malformed, by the clauses of R122 in their order. -/
theorem wit_MalformedExactlyAsListed :
    parseOption .skip (readList [0, 0, 0]) 3 0 = .malformed ∧
    parseOption .skip (readList [0, 0, 0, 1]) 4 0 = .malformed ∧
    parseOption .skip (readList [0, 8, 0, 3, 0, 1, 0]) 7 0 = .malformed ∧
    parseOption .stop (readList [0, 8, 0, 4, 0, 0, 0, 0]) 8 0 = .malformed ∧
    parseOption .stop (readList [0, 8, 0, 9, 0, 1, 33, 0, 0, 0, 0, 0, 0]) 13 0 = .malformed ∧
    parseOption .stop (readList [0, 8, 0, 4, 0, 1, 1, 0]) 8 0 = .malformed ∧
    parseOption .stop (readList [0, 8, 0, 4, 0, 2, 0, 0]) 8 0 = .ecs .v6 0 4 := by decide

theorem wit_UnknownFamilyStopsOrPasses :
    (be16 (readList optUnknown) 0).toNat = 8 ∧ 4 ≤ (be16 (readList optUnknown) 2).toNat ∧
    0 + 4 + (be16 (readList optUnknown) 2).toNat ≤ 22 ∧ (be16 (readList optUnknown) 4).toNat ≠ 1 ∧
    (be16 (readList optUnknown) 4).toNat ≠ 2 ∧
    4 + [0xc0, 0x00, 0x02].length < 65536 ∧ ((0 : Byte) ++ (0 : Byte)).toNat ≠ 1 ∧ ((1 : Byte) ++ (2 : Byte)).toNat ≠ 2 := by
  decide

theorem wit_ScopePrefixIsNeverRead :
    ∀ i, 0 ≤ i → i < 0 + 7 → readList optV4 i = readList (optV4.set 7 0x18) i := by decide

theorem wit_NoEcsOptionMeansNoChange :
    optionCursors .stop optCookie = [0] ∧
    (∀ p ∈ optionCursors .stop optCookie, (be16 (readList optCookie) p).toNat ≠ 8) ∧
    ((0 : Byte) ++ (0 : Byte)).toNat ≠ 8 ∧ ((8 : Byte) ++ (0 : Byte)).toNat ≠ 8 ∧ ([] : List Byte).length < 65536 := by decide

theorem wit_RewriteGoesOnBehindParsedRdata :
    (optRewrite .stop scheduleA optCookie).malformed = false ∧ 4 ≤ [0x00, 0x0a, 0x00, 0x05, 0xaa, 0xbb].length ∧
    [0x00, 0x0a, 0x00, 0x05, 0xaa, 0xbb].length - 4 < (be16 (readList [0x00, 0x0a, 0x00, 0x05, 0xaa, 0xbb]) 2).toNat := by decide

theorem wit_MisalignedAccessGetsError :
    (0x00001 : BusAddr).extractLsb' 0 2 ≠ 0 ∧ (0x1FFFF : BusAddr).extractLsb' 0 2 ≠ 0 := by decide

theorem wit_ReservedOffsetGetsError :
    (0x00030 : BusAddr).toNat % 4 = 0 ∧ 0x00030 ≤ (0x00030 : BusAddr).toNat ∧ (0x00030 : BusAddr).toNat ≤ 0x0FFFF ∧
    (0x0FFFC : BusAddr).toNat % 4 = 0 ∧ 0x00030 ≤ (0x0FFFC : BusAddr).toNat ∧ (0x0FFFC : BusAddr).toNat ≤ 0x0FFFF := by decide

theorem wit_AddressMapIsExact :
    (0x0002C : BusAddr).toNat % 4 = 0 ∧ (0x0002C : BusAddr).toNat < 0x30 ∧
    (0x10000 : BusAddr).toNat % 4 = 0 ∧ 0x10000 ≤ (0x10000 : BusAddr).toNat ∧
    (0x1FFFC : BusAddr).toNat % 4 = 0 ∧ 0x10000 ≤ (0x1FFFC : BusAddr).toNat ∧
    (0x00030 : BusAddr).toNat % 4 = 0 ∧ 0x30 ≤ (0x00030 : BusAddr).toNat ∧
    (0x0FFFC : BusAddr).toNat % 4 = 0 ∧ (0x0FFFC : BusAddr).toNat < 0x10000 := by decide

/-- Both kinds of word, for KeyExpandFollowsItsRecurrence, at the ends of their ranges. -/
theorem wit_KeyExpandFollowsItsRecurrence :
    (4 ≤ 5 ∧ 5 < 44 ∧ 5 % 4 ≠ 0) ∧ (4 ≤ 43 ∧ 43 < 44 ∧ 43 % 4 ≠ 0) ∧ (4 ≤ 4 ∧ 4 < 44 ∧ 4 % 4 = 0) ∧
    (4 ≤ 40 ∧ 40 < 44 ∧ 40 % 4 = 0) ∧ (1 ≤ 1 ∧ 9 < 10) := by decide

/-- BUSY = 0: for BufWordWriteStoresFourBytes, DinWriteStoresItsWord, ReadReturnsTheLastWrite, ReadsHaveNoSideEffect and
IdleReadsAreExact. -/
theorem wit_idle : State.reset.busy = false := by decide

theorem wit_ReadReturnsTheLastWrite :
    (0x00010 : BusAddr).toNat % 4 = 0 ∧ 0x10 ≤ (0x00010 : BusAddr).toNat ∧ (0x0001C : BusAddr).toNat < 0x20 ∧
    0x10000 ≤ (0x10000 : BusAddr).toNat ∧ (0x1FFFC : BusAddr).toNat % 4 = 0 := by decide

theorem wit_ReadOnlyWritesAreIgnored :
    (0x00004 : BusAddr).toNat % 4 = 0 ∧ 0x4 ≤ (0x00004 : BusAddr).toNat ∧ (0x0000C : BusAddr).toNat < 0x10 ∧
    (0x00020 : BusAddr).toNat % 4 = 0 ∧ 0x20 ≤ (0x00020 : BusAddr).toNat ∧ (0x0002C : BusAddr).toNat < 0x30 := by decide

theorem wit_BusyReadsThatStayExact :
    Inv (State.reset.accept 0) ∧ (State.reset.accept 0).busy = true ∧ (State.reset.accept 0).cur &&& 0x0000FFFF ≠ 1 ∧
    (0x00008 : BusAddr).toNat % 4 = 0 ∧ (0x0002C : BusAddr).toNat < 0x30 ∧ 0x10000 ≤ (0x1FFFC : BusAddr).toNat :=
  ⟨⟨by decide, by decide, by decide, by decide, by decide, by decide⟩, by decide⟩

theorem wit_HostCannotDisturbARunningCommand : (State.reset.accept 2).busy = true := by decide

/-- WERR falls at an accepted command word. -/
theorem wit_WerrIsSticky_accept :
    let s : State := { State.reset with werr := true, turns := [.host (.write 0 0)] }
    s.werr = true ∧ step s = .next ({ s with turns := [] } |>.hostAccess (.write 0 0)) ∧ (after s).werr = false :=
  ⟨rfl, rfl, by decide⟩

/-- WERR falls at a reset event. -/
theorem wit_WerrIsSticky_reset :
    let s : State := { State.reset with werr := true, turns := [.reset] }
    s.werr = true ∧ step s = .next (State.resetEvent { s with turns := [] }) ∧ (after s).werr = false := ⟨rfl, rfl, by decide⟩

theorem wit_EveryStepKeepsTheInvariant : Inv State.reset ∧ step State.reset = .next State.reset := ⟨reset_inv, rfl⟩

theorem wit_ResetEventResetsEverything : ({ keyed with turns := [.reset] } : State).turns = .reset :: [] := by decide

/-- KEY_LOAD with a wrong length changes KEY_VALID and KS. -/
theorem wit_KeyChangesOnlyByKeyLoadOrReset :
    step (running keyed 1) = .next ((keyed.accept 1).dropKey.raise .invalidKeyLength) ∧
    ((keyed.accept 1).dropKey.raise .invalidKeyLength).keyValid ≠ (running keyed 1).keyValid := ⟨rfl, by decide⟩

/-- A reset event changes KEY_VALID. -/
theorem wit_KeyChangesOnlyByKeyLoadOrReset_reset :
    step { keyed with turns := [.reset] } = .next (State.resetEvent { keyed with turns := [] }) ∧
    (State.resetEvent { keyed with turns := [] }).keyValid ≠ keyed.keyValid := ⟨rfl, by decide⟩

/-- ANON_V4 clears DOUT1..3, so it changes a DOUT that was not zero there. -/
theorem wit_DataChangesOnlyAsNamed_dout :
    (after (running { keyed with dout := keyA } 0x00000003)).dout ≠ (running { keyed with dout := keyA } 0x00000003).dout := by
  decide +kernel

/-- An incomplete header changes RDSTAT, whatever the bytes are. -/
theorem wit_DataChangesOnlyAsNamed_rdstat :
    (after (running keyed 0x00010005)).malformed ≠ (running keyed 0x00010005).malformed := by decide

/-- A host write while BUSY = 0 to the DIN word that holds byte 3 changes it, and one to BUF word 0 changes BUF[3]. -/
theorem wit_DataChangesOnlyAsNamed_write :
    (after { State.reset with turns := [.host (.write 0x10 5)] }).din[3] ≠ State.reset.din[3] ∧
    (after { State.reset.setBufByte 3 1 with turns := [.host (.write 0x10000 0)] }).bufByte 3 ≠
      (State.reset.setBufByte 3 1).bufByte 3 := by decide

/-- OPT_REWRITE changes BUF (V-OPT-2). -/
theorem wit_DataChangesOnlyAsNamed_buf :
    (after (running (keyed.setBufBytes 0 optV4) 0x000B0005)).bufByte 8 ≠ (running (keyed.setBufBytes 0 optV4) 0x000B0005).bufByte 8 := by
  decide +kernel

theorem wit_PollEndsWithBusyClear :
    let s : State := { State.reset.accept 0 with turns := pollTurns 2 ++ [.host (.read 0)] }
    s.busy = true ∧ s.turns = pollTurns 2 ++ [.host (.read 0)] := by decide

theorem wit_MnemonicsWriteTheirWords : 65535 < 65536 := by decide

end Sys2Proof.Tests
end

section
/-! SUPPORT. What a command, the core's turn and a step can do, each said once: the inversion lemmas that the proofs about
the state cite. -/

namespace Sys2Proof

/-- The rows that write DOUT (R39): ENCRYPT_BLOCK, ANON_V4 and ANON_V6. -/
def Instr.writesDout : Instr → Bool
  | .encryptBlock _ | .anonV4 _ | .anonV6 _ => true
  | .nop _ | .keyLoad _ | .optRewrite _ => false

/-- The rows that raise NO_KEY without a key (R153). -/
def Instr.usesKey : Instr → Bool
  | .encryptBlock _ | .anonV4 _ | .anonV6 _ | .optRewrite _ => true
  | .nop _ | .keyLoad _ => false

end Sys2Proof

namespace Sys2Proof.Machine

/-! ### The meaning of an instruction -/

/-- The ways a command can end (R38, R39, R75, R152, R153): `CommandResult i s t` says that `t` is what `i` makes of `s`. -/
inductive CommandResult : Instr → State → State → Prop
  | nop (len : BitVec 16) (s : State) : CommandResult (.nop len) s s.complete
  | keyInstalled (s : State) : CommandResult (.keyLoad 16) s (s.installKey s.keyOperand).complete
  | keyDropped {len : BitVec 16} (hlen : len ≠ 16) (s : State) :
      CommandResult (.keyLoad len) s (s.dropKey.raise .invalidKeyLength)
  | noKey {i : Instr} {s : State} (hi : i.usesKey = true) (hk : s.keyValid = false) :
      CommandResult i s (s.raise .noKey)
  | doutWritten {i : Instr} {s : State} (hi : i.writesDout = true) (hk : s.keyValid = true) (b : Block) :
      CommandResult i s (s.setDout b).complete
  | rdataRewritten (len : BitVec 16) {s : State} (hk : s.keyValid = true) :
      CommandResult (.optRewrite len) s (s.rewriteRdata len).complete

/-- A command that writes DOUT under the guard of R37 ends in one of its two ways. -/
theorem CommandResult.of_withKey_setDout {i : Instr} (hu : i.usesKey = true) (hd : i.writesDout = true) (s : State)
    (out : State → Block) : CommandResult i s (s.withKey fun t => t.setDout (out t)) := by
  rcases s.withKey_cases fun t => t.setDout (out t) with ⟨hk, e⟩ | ⟨hk, e⟩
  · rw [e]; exact .doutWritten hd hk _
  · rw [e]; exact .noKey hu hk

/-- Every instruction has a next state, and it is one of the results above. -/
theorem exec_result (i : Instr) (s : State) : ∃ t, exec i s = .next t ∧ CommandResult i s t := by
  cases i with
  | nop len => exact ⟨_, rfl, .nop len s⟩
  | keyLoad len =>
    rcases execKeyLoad_cases len s with ⟨rfl, e⟩ | ⟨hlen, e⟩
    · exact ⟨_, e, .keyInstalled s⟩
    · exact ⟨_, e, .keyDropped hlen s⟩
  | encryptBlock len => exact ⟨_, rfl, .of_withKey_setDout rfl rfl s fun t => aesEncrypt t.ks t.din⟩
  | anonV4 len =>
    exact ⟨_, rfl, .of_withKey_setDout rfl rfl s fun t =>
      let a := anonV4 t.ks t.dinV4
      #v[a[0], a[1], a[2], a[3], 0, 0, 0, 0, 0, 0, 0, 0, 0, 0, 0, 0]⟩
  | anonV6 len => exact ⟨_, rfl, .of_withKey_setDout rfl rfl s fun t => anonV6 t.ks t.din⟩
  | optRewrite len =>
    refine ⟨_, rfl, ?_⟩
    rcases s.withKey_cases fun t => t.rewriteRdata len with ⟨hk, e⟩ | ⟨hk, e⟩
    · rw [e]; exact .rdataRewritten len hk
    · rw [e]; exact .noKey rfl hk

/-- What exec answers is a result of its instruction. -/
theorem commandResult_of_exec {i : Instr} {s t : State} (h : exec i s = .next t) : CommandResult i s t := by
  obtain ⟨t', e, hr⟩ := exec_result i s
  rw [h] at e
  cases e
  exact hr

/-- Every command clears BUSY (R38). -/
theorem CommandResult.busy {i : Instr} {s t : State} (h : CommandResult i s t) : t.busy = false := by
  cases h <;> rfl

/-- Every command leaves a code of R151 in ERR. -/
theorem CommandResult.err_le {i : Instr} {s t : State} (h : CommandResult i s t) : t.err ≤ 0x3 := by
  cases h <;> simp [ErrCode.code]

/-! ### The core's turn and the step -/

theorem coreStep_of_ok {s : State} {i : Instr} (h : decode s.cur = .ok i) : coreStep s = exec i s := by
  simp [coreStep, h]

theorem coreStep_of_error {s : State} {e : Reject} (h : decode s.cur = .error e) :
    coreStep s = .next (s.raise .illegalOp) := by simp [coreStep, h]

/-- What a core step can end in: the result of the command in CUR, or ILLEGAL_OP alone (R37). -/
theorem coreStep_result {s t : State} (h : coreStep s = .next t) :
    (∃ i, decode s.cur = .ok i ∧ CommandResult i s t) ∨ t = s.raise .illegalOp := by
  rcases coreStep_cases s with ⟨i, hi, e⟩ | ⟨_, -, e⟩ <;> rw [e] at h
  · exact .inl ⟨i, hi, commandResult_of_exec h⟩
  · cases h; exact .inr rfl

theorem coreTurn_of_busy {s : State} (h : s.busy = true) : coreTurn s = coreStep s := by simp [coreTurn, h]

theorem coreTurn_of_idle {s : State} (h : s.busy = false) : coreTurn s = .next s := by simp [coreTurn, h]

/-- What the core's turn can end in: nothing new with BUSY = 0, else what the core step ends in (R37). -/
theorem coreTurn_result {s t : State} (h : coreTurn s = .next t) :
    (s.busy = false ∧ t = s) ∨ (s.busy = true ∧ coreStep s = .next t) := by
  cases hb : s.busy
  · rw [coreTurn_of_idle hb] at h; cases h; exact .inl ⟨rfl, rfl⟩
  · rw [coreTurn_of_busy hb] at h; exact .inr ⟨rfl, h⟩

theorem step_of_no_turns {s : State} (h : s.turns = []) : step s = coreTurn s := by simp [step, nextTurn, h]

theorem step_of_core_turn {s : State} {rest : List Turn} (h : s.turns = .core :: rest) :
    step s = coreTurn { s with turns := rest } := by simp [step, nextTurn, h]

theorem step_of_host_turn {s : State} {a : BusAccess} {rest : List Turn} (h : s.turns = .host a :: rest) :
    step s = .next (State.hostAccess { s with turns := rest } a) := by simp [step, nextTurn, h]

theorem step_of_reset_turn {s : State} {rest : List Turn} (h : s.turns = .reset :: rest) :
    step s = .next (State.resetEvent { s with turns := rest }) := by simp [step, nextTurn, h]

/-- The next move is the core's: its turn is listed first, or no turn is listed (assumption 3). -/
def CoreMoves (s : State) : Prop := s.turns = [] ∨ ∃ rest, s.turns = .core :: rest

/-- What a step can end in, by whose turn it is, each on the state with that turn taken (R20). -/
theorem step_result {s t : State} (h : step s = .next t) :
    (CoreMoves s ∧ ∃ rest, coreTurn { s with turns := rest } = .next t) ∨
      (∃ a rest, s.turns = .host a :: rest ∧ t = State.hostAccess { s with turns := rest } a) ∨
      (∃ rest, s.turns = .reset :: rest ∧ t = State.resetEvent { s with turns := rest }) := by
  rcases step_cases s with ⟨hn, e⟩ | ⟨rest, hc, e⟩ | ⟨a, rest, ha, e⟩ | ⟨rest, hr, e⟩ <;> rw [e] at h
  · exact .inl ⟨.inl hn, s.turns, h⟩
  · exact .inl ⟨.inr ⟨rest, hc⟩, rest, h⟩
  · cases h; exact .inr (.inl ⟨a, rest, ha, rfl⟩)
  · cases h; exact .inr (.inr ⟨rest, hr, rfl⟩)

end Sys2Proof.Machine
end

section
/-! SUPPORT. What the report of OPT_REWRITE is bounded by (R127, R129), and the invariant under each operation of the model. -/

namespace Sys2Proof.Machine

/-- What the loop of R128 keeps: the length of the RDATA, a cursor inside it, and eight bytes behind the cursor for every
option counted. -/
theorem optLoop_bounds (policy : EcsUnknownFamily) (ks : KeySchedule) (fuel : Nat) (b : List Byte) (p n : Nat)
    (hn : 8 * n ≤ p) (hp : p ≤ b.length) :
    (optLoop policy ks fuel b p n).bytes.length = b.length ∧
      8 * (optLoop policy ks fuel b p n).count ≤ (optLoop policy ks fuel b p n).stop ∧
      (optLoop policy ks fuel b p n).stop ≤ b.length := by
  induction fuel generalizing b p n with
  | zero => exact ⟨rfl, hn, hp⟩
  | succ fuel ih =>
    rw [optLoop]
    split
    · exact ⟨rfl, hn, hp⟩
    · split
      · exact ⟨rfl, hn, hp⟩
      · next olen ho => exact ih b _ n (by omega) (parseOption_passThrough ho)
      · next fam nb olen ho =>
        obtain ⟨hend, hfield, hwidth, -⟩ := parseOption_ecs ho
        have hlen : (spliceAt b (p + 8) (rewrittenAddress ks (readList b) fam (p + 8) nb)).length = b.length :=
          spliceAt_length (by rw [rewrittenAddress_length ks _ _ hwidth]; omega)
        rw [← hlen]
        exact ih _ _ _ (by omega) (by omega)

/-- The rewrite keeps the length, and each option it counts lies before where it stopped (R116, R127). -/
theorem optRewrite_bounds (policy : EcsUnknownFamily) (ks : KeySchedule) (b : List Byte) :
    (optRewrite policy ks b).bytes.length = b.length ∧
      8 * (optRewrite policy ks b).count ≤ (optRewrite policy ks b).stop ∧ (optRewrite policy ks b).stop ≤ b.length :=
  optLoop_bounds policy ks _ b 0 0 (Nat.le_refl 0) (Nat.zero_le _)

@[simp] theorem State.rdata_length (s : State) (len : BitVec 16) : (s.rdata len).length = len.toNat := by
  simp [State.rdata, State.bufBytes, lenOperand]

end Sys2Proof.Machine

namespace Sys2Proof.Safety

open Sys2Proof.Machine

/-- The fields of the state that the invariant speaks of. -/
def invFields (s : State) : Memory × Bool × BitVec 4 × Bool × KeySchedule × BitVec 16 × BitVec 16 :=
  (s.buf, s.busy, s.err, s.keyValid, s.ks, s.stopOff, s.count)

/-- The invariant rests on its fields alone: an operation that touches none of them keeps it. -/
theorem Inv.congr {s t : State} (h : Inv s) (e : invFields t = invFields s) : Inv t := by
  simp only [invFields, Prod.mk.injEq] at e
  obtain ⟨hbuf, hbusy, herr, hkey, hks, hstop, hcount⟩ := e
  constructor <;> simp only [hbuf, hbusy, herr, hkey, hks, hstop, hcount]
  exacts [h.bufWf, h.errKnown, h.errWhileBusy, h.scheduleWithoutKey, h.scheduleOfKey, h.countFits]

/-! ### The invariant under the model's operations -/

section
variable {s : State} (h : Inv s)
include h

theorem Inv.turns (rest : List Turn) : Inv { s with turns := rest } := h.congr rfl

theorem Inv.respond (r : BusResponse) : Inv (s.respond r) := h.congr rfl

theorem Inv.setDout (b : Block) : Inv (s.setDout b) := h.congr rfl

theorem Inv.accept (v : Word) : Inv (s.accept v) :=
  ⟨h.bufWf, by simp, fun _ => rfl, h.scheduleWithoutKey, h.scheduleOfKey, h.countFits⟩

theorem Inv.complete : Inv s.complete :=
  ⟨h.bufWf, by simp, fun _ => rfl, h.scheduleWithoutKey, h.scheduleOfKey, h.countFits⟩

theorem Inv.raise (e : ErrCode) : Inv (s.raise e) :=
  ⟨h.bufWf, by cases e <;> simp [ErrCode.code], nofun, h.scheduleWithoutKey, h.scheduleOfKey, h.countFits⟩

theorem Inv.installKey (k : Block) : Inv (s.installKey k) :=
  ⟨h.bufWf, h.errKnown, h.errWhileBusy, nofun, fun _ => ⟨k, rfl⟩, h.countFits⟩

theorem Inv.dropKey : Inv s.dropKey :=
  ⟨h.bufWf, h.errKnown, h.errWhileBusy, fun _ => rfl, nofun, h.countFits⟩

/-- Writing bytes inside BUF keeps the invariant. -/
theorem Inv.setBufBytes {i : Nat} {vs : List Byte} (hi : i + vs.length ≤ Config.bufSize) : Inv (s.setBufBytes i vs) where
  bufWf := s.setBufBytes_wf i vs h.bufWf hi
  errKnown := by simpa using h.errKnown
  errWhileBusy := by simpa using h.errWhileBusy
  scheduleWithoutKey := by simpa using h.scheduleWithoutKey
  scheduleOfKey := by simpa using h.scheduleOfKey
  countFits := by simpa using h.countFits

theorem Inv.setBufWord (j : Fin 16384) (v : Word) : Inv (s.setBufWord j.val v) :=
  h.setBufBytes (by simp [Config.bufSize]; omega)

/-- A report whose count fits its stop, inside BUF, keeps the invariant. -/
theorem Inv.setReport {r : RewriteResult} (hc : 8 * r.count ≤ r.stop) (hs : r.stop < 65536) : Inv (s.setReport r) :=
  ⟨h.bufWf, h.errKnown, h.errWhileBusy, h.scheduleWithoutKey, h.scheduleOfKey, by simp; omega⟩

/-- OPT_REWRITE writes inside BUF and reports a count that fits (R29, R127). -/
theorem Inv.rewriteRdata (len : BitVec 16) : Inv (s.rewriteRdata len) := by
  obtain ⟨hbytes, hcount, hstop⟩ := optRewrite_bounds Config.ecsUnknownFamily s.ks (s.rdata len)
  have hlen := len.isLt
  rw [State.rdata_length] at hbytes hstop
  exact (h.setBufBytes (by rw [hbytes, Config.bufSize]; omega)).setReport hcount (by omega)

/-- Every command keeps the invariant. -/
theorem Inv.commandResult {i : Instr} {t : State} (hr : CommandResult i s t) : Inv t := by
  cases hr with
  | nop len => exact h.complete
  | keyInstalled => exact (h.installKey _).complete
  | keyDropped hlen => exact h.dropKey.raise _
  | noKey hi hk => exact h.raise _
  | doutWritten hi hk b => exact (h.setDout b).complete
  | rdataRewritten len hk => exact (h.rewriteRdata len).complete

/-- The core's turn keeps the invariant. -/
theorem Inv.coreTurn {t : State} (ht : coreTurn s = .next t) : Inv t := by
  rcases coreTurn_result ht with ⟨-, rfl⟩ | ⟨-, hc⟩
  · exact h
  · rcases coreStep_result hc with ⟨i, -, hr⟩ | rfl
    · exact h.commandResult hr
    · exact h.raise _

theorem Inv.readTarget (t : Target) : Inv (s.readTarget t).2 := by
  rcases s.readTarget_state t with e | e <;> rw [e]
  · exact h
  · exact h.congr rfl

theorem Inv.writeTarget (v : Word) (t : Target) : Inv (s.writeTarget v t) := by
  cases hb : s.busy
  · rcases State.writeTarget_idle hb v t with e | e | ⟨k, e⟩ | ⟨j, e⟩ <;> rw [e]
    · exact h
    · exact h.accept v
    · exact h.congr rfl
    · exact h.setBufWord j v
  · rcases State.writeTarget_busy hb v t with e | e <;> rw [e]
    · exact h
    · exact h.congr rfl

/-- A host access keeps the invariant. -/
theorem Inv.hostAccess (a : BusAccess) : Inv (s.hostAccess a) := by
  rcases s.hostAccess_cases a with e | ⟨t, e⟩ | ⟨v, t, e⟩ <;> rw [e]
  · exact h.respond _
  · exact (h.readTarget t).respond _
  · exact (h.writeTarget v t).respond _

end

/-- The reset state meets the invariant: BUF lists nothing, there is no key and nothing is counted (R40). -/
theorem Inv.reset : Inv State.reset where
  bufWf := State.reset_buf_wf
  errKnown := by simp [State.reset]
  errWhileBusy := nofun
  scheduleWithoutKey := fun _ => rfl
  scheduleOfKey := nofun
  countFits := by simp [State.reset]

/-- A reset event establishes the invariant from any state. -/
theorem Inv.resetEvent (s : State) : Inv s.resetEvent := Inv.reset.congr rfl

/-- Settles O55. -/
theorem invariantHoldsAtReset : Obligations.InvariantHoldsAtReset := Inv.reset

/-- Settles O54, by whose turn it is: the core's, the host's, or RESET's. -/
theorem everyStepKeepsTheInvariant : Obligations.EveryStepKeepsTheInvariant := by
  intro s t h hs
  rcases step_result hs with ⟨-, rest, hc⟩ | ⟨a, rest, -, rfl⟩ | ⟨rest, -, rfl⟩
  · exact (h.turns rest).coreTurn hc
  · exact (h.turns rest).hostAccess a
  · exact Inv.resetEvent _

end Sys2Proof.Safety
end

section
/-! SUPPORT. The slave port by target: the address map both ways, what a read answers and what a write leaves in each field,
and the bits of the status words. -/

namespace Sys2Proof.Machine

/-! ### The address map (R45) -/

theorem Target.toNat_addr_din (k : Fin 4) : (Target.din k).addr.toNat = 0x10 + 4 * k.val := by
  simp only [Target.addr, BitVec.toNat_ofNat]; omega

theorem Target.toNat_addr_dout (k : Fin 4) : (Target.dout k).addr.toNat = 0x20 + 4 * k.val := by
  simp only [Target.addr, BitVec.toNat_ofNat]; omega

theorem Target.toNat_addr_bufWord (j : Fin 16384) : (Target.bufWord j).addr.toNat = 0x10000 + 4 * j.val := by
  simp only [Target.addr, BitVec.toNat_ofNat]; omega

/-- No target lies in the reserved range (R23, R47). -/
theorem Target.addr_outside_reserved (t : Target) : t.addr.toNat < 0x30 ∨ 0x10000 ≤ t.addr.toNat := by
  cases t with
  | cmd | status | rdstat | ecscnt => exact .inl (by decide)
  | din k => rw [Target.toNat_addr_din]; omega
  | dout k => rw [Target.toNat_addr_dout]; omega
  | bufWord j => rw [Target.toNat_addr_bufWord]; omega

/-- Every target is found at its address. -/
theorem decodeAddr_addr (t : Target) : decodeAddr t.addr = .ok t := by
  cases t with
  | cmd | status | rdstat | ecscnt => rfl
  | din k => fin_cases k <;> rfl
  | dout k => fin_cases k <;> rfl
  | bufWord j =>
    have hj : (0x10000 + 4 * j.val - 0x10000) / 4 = j.val := by omega
    simp only [decodeAddr, Target.toNat_addr_bufWord, hj]
    rw [if_neg (by omega), if_pos (by omega)]
    simp [Fin.ofNat, Nat.mod_eq_of_lt j.isLt]

/-- Every aligned address outside the reserved range is the address of a target. -/
theorem exists_target_of_aligned {addr : BusAddr} (hal : addr.toNat % 4 = 0)
    (hr : addr.toNat < 0x30 ∨ 0x10000 ≤ addr.toNat) : ∃ t : Target, t.addr = addr := by
  rcases decodeAddr_cases addr with ⟨hm, -⟩ | ⟨-, hlo, hhi, -⟩ | ⟨t, -, ht⟩
  · exact absurd hal hm
  · omega
  · exact ⟨t, ht⟩

/-- Every aligned address of the reserved range is refused as one (R47). -/
theorem decodeAddr_reserved {addr : BusAddr} (hal : addr.toNat % 4 = 0) (hlo : 0x30 ≤ addr.toNat)
    (hhi : addr.toNat < 0x10000) : decodeAddr addr = .error .reserved := by
  rcases decodeAddr_cases addr with ⟨hm, -⟩ | ⟨-, -, -, e⟩ | ⟨t, -, rfl⟩
  · exact absurd hal hm
  · exact e
  · have hout := t.addr_outside_reserved
    omega

/-! ### Accesses by target -/

theorem State.hostAccess_read_addr (s : State) (t : Target) :
    s.hostAccess (.read t.addr) = (s.readTarget t).2.respond (.okayData (s.readTarget t).1) := by
  simp [State.hostAccess, decodeAddr_addr]

theorem State.hostAccess_write_addr (s : State) (v : Word) (t : Target) :
    s.hostAccess (.write t.addr v) = (s.writeTarget v t).respond .okay := by
  simp [State.hostAccess, decodeAddr_addr]

/-- What a host access is: refused in every state alike, a read of a target, or a write of one. -/
theorem hostAccess_by_target (a : BusAccess) :
    (∀ s : State, s.hostAccess a = s.respond .error) ∨ (∃ t : Target, a = .read t.addr) ∨
      (∃ (v : Word) (t : Target), a = .write t.addr v) := by
  cases a with
  | read addr =>
    rcases decodeAddr_cases addr with ⟨-, e⟩ | ⟨-, -, -, e⟩ | ⟨t, -, rfl⟩
    · exact .inl fun s => by simp [State.hostAccess, e]
    · exact .inl fun s => by simp [State.hostAccess, e]
    · exact .inr (.inl ⟨t, rfl⟩)
  | write addr v =>
    rcases decodeAddr_cases addr with ⟨-, e⟩ | ⟨-, -, -, e⟩ | ⟨t, -, rfl⟩
    · exact .inl fun s => by simp [State.hostAccess, e]
    · exact .inl fun s => by simp [State.hostAccess, e]
    · exact .inr (.inr ⟨v, t, rfl⟩)

/-- What a write of a target can do, with the target it needs (R36, R41, R49, R50, R157). -/
theorem State.writeTarget_cases (s : State) (v : Word) (t : Target) :
    s.writeTarget v t = s ∨ s.writeTarget v t = s.dropWrite ∨
      (s.busy = false ∧ t = .cmd ∧ s.writeTarget v t = s.accept v) ∨
      (s.busy = false ∧ ∃ k, t = .din k ∧ s.writeTarget v t = { s with din := setBlockWord s.din k v }) ∨
      (s.busy = false ∧ ∃ j : Fin 16384, t = .bufWord j ∧ s.writeTarget v t = s.setBufWord j.val v) := by
  cases hb : s.busy
  · cases t <;> simp [State.writeTarget, hb]
  · rcases State.writeTarget_busy hb v t with e | e <;> simp [e]

theorem State.response_read_addr (s : State) (t : Target) :
    (s.hostAccess (.read t.addr)).response = some (.okayData (s.readTarget t).1) := by
  rw [State.hostAccess_read_addr, State.respond_response]

/-- With BUSY = 0 the response is the exact value (R48). -/
theorem State.response_read_idle {s : State} (h : s.busy = false) (t : Target) :
    (s.hostAccess (.read t.addr)).response = some (.okayData (s.exactRead t)) := by
  rw [State.response_read_addr, State.readTarget_idle h]

/-! ### STATUS, RDSTAT and ECSCNT bit by bit (R25, R28, R29) -/

theorem State.getLsbD_statusWith (s : State) (kv : Bool) (i : Nat) :
    (s.statusWith kv).getLsbD i =
      if i = 0 then s.busy else if i = 1 then kv else if i = 2 then s.werr else if i = 3 then false
      else s.err.getLsbD (i - 4) := by
  simp only [State.statusWith, BitVec.getLsbD_append]
  rcases i with _ | _ | _ | _ | i
  · simp
  · simp
  · simp
  · simp
  · by_cases hi : i < 4
    · simp [hi]
    · simp [hi, BitVec.getLsbD_of_ge s.err i (by omega)]

theorem State.statusWith_err (s : State) (kv : Bool) : (s.statusWith kv).extractLsb' 4 4 = s.err := by
  apply BitVec.eq_of_getLsbD_eq
  intro i hi
  simp only [BitVec.getLsbD_extractLsb', State.getLsbD_statusWith, hi]
  grind

theorem State.statusWith_reserved (s : State) (kv : Bool) : (s.statusWith kv).extractLsb' 8 24 = 0 := by
  apply BitVec.eq_of_getLsbD_eq
  intro i hi
  simp only [BitVec.getLsbD_extractLsb', State.getLsbD_statusWith, hi]
  grind

theorem State.getLsbD_rdstat (s : State) (i : Nat) :
    s.rdstat.getLsbD i =
      if i < 16 then s.stopOff.getLsbD i else if i = 16 then s.malformed else false := by
  simp only [State.rdstat, BitVec.getLsbD_append]
  grind

theorem State.rdstat_stopOff (s : State) : s.rdstat.extractLsb' 0 16 = s.stopOff :=
  BitVec.extractLsb'_append_eq_right

theorem State.rdstat_reserved (s : State) : s.rdstat.extractLsb' 17 15 = 0 := by
  apply BitVec.eq_of_getLsbD_eq
  intro i hi
  simp only [BitVec.getLsbD_extractLsb', State.getLsbD_rdstat, hi]
  grind

theorem State.ecscnt_count (s : State) : s.ecscnt.extractLsb' 0 16 = s.count :=
  BitVec.extractLsb'_append_eq_right

theorem State.ecscnt_reserved (s : State) : s.ecscnt.extractLsb' 16 16 = 0 :=
  BitVec.extractLsb'_append_eq_left

/-! ### The words of DIN, DOUT and BUF (R26, R50, R52) -/

/-- Byte `m` of a word whose four bytes are read from consecutive places. -/
theorem byteOfWord_wordOfBytes_fin (f : Fin 4 → Byte) (m : Fin 4) :
    byteOfWord (wordOfBytes (f 0) (f 1) (f 2) (f 3)) m.val = f m := by
  obtain ⟨h0, h1, h2, h3⟩ := byteOfWord_wordOfBytes (f 0) (f 1) (f 2) (f 3)
  fin_cases m
  exacts [h0, h1, h2, h3]

theorem byteOfWord_blockWord (b : Block) (k m : Fin 4) : byteOfWord (blockWord b k) m.val = b[4 * k.val + m.val] :=
  byteOfWord_wordOfBytes_fin (fun m => b[4 * k.val + m.val]) m

theorem State.byteOfWord_bufWord (s : State) (j : Nat) (m : Fin 4) :
    byteOfWord (s.bufWord j) m.val = s.bufByte (4 * j + m.val) :=
  byteOfWord_wordOfBytes_fin (fun m => s.bufByte (4 * j + m.val)) m

theorem getElem_setBlockWord (b : Block) (k : Fin 4) (w : Word) (i : Fin 16) :
    (setBlockWord b k w)[i] = if i.val / 4 = k.val then byteOfWord w (i.val % 4) else b[i] := by
  simp [setBlockWord]

/-- A write of one word of BUF changes no byte of another word. -/
theorem State.bufByte_setBufWord_other (s : State) (w : Word) {j a : Nat} (h : a / 4 ≠ j) :
    (s.setBufWord j w).bufByte a = s.bufByte a := by
  rw [State.setBufWord, State.bufByte_setBufBytes, if_neg (by simp; omega)]

/-! ### KEY_LOAD in flight (R42) and the row of a command word (R64) -/

/-- What an OP value selects is the instruction with that OP and the LEN given. -/
theorem fields_of_instrOfOp {op : BitVec 4} {len : BitVec 16} {i : Instr} (h : instrOfOp op len = some i) :
    opOf i = op ∧ i.len = len := by
  unfold instrOfOp at h
  split at h <;> cases h <;> exact ⟨BitVec.eq_of_toNat_eq (Eq.symm ‹_›), rfl⟩

/-- What the decoder promises of the word's three fields (R24, R66, R67). -/
theorem fields_of_decode {w : Word} {i : Instr} (h : decode w = .ok i) :
    rsvdField w = 0 ∧ opOf i = opField w ∧ i.len = lenField w := by
  unfold decode at h
  split at h
  · cases h
  · next hr =>
    split at h
    · next i' hi => cases h; exact ⟨not_not.mp hr, fields_of_instrOfOp hi⟩
    · cases h

/-- A word that decodes to an instruction is the word of that instruction. -/
theorem encode_of_decode {w : Word} {i : Instr} (h : decode w = .ok i) : encode i = w := by
  have hfields : lenField w ++ rsvdField w ++ opField w = w := by
    apply BitVec.eq_of_getLsbD_eq
    intro k hk
    simp only [lenField, rsvdField, opField, BitVec.getLsbD_append, BitVec.getLsbD_extractLsb']
    grind
  obtain ⟨hr, hop, hlen⟩ := fields_of_decode h
  rw [encode, hlen, hop, ← hr, hfields]

/-- A word that decodes to an instruction matches its row and carries its LEN (R64). -/
theorem row_of_decode {w : Word} {i : Instr} (h : decode w = .ok i) :
    w &&& 0x0000FFFF = i.rowMatch ∧ w.extractLsb' 16 16 = i.len := by
  have hrow : Laws.TableRow.Statement i := by
    cases i
    exacts [Laws.TableRow.nop _, Laws.TableRow.keyLoad _, Laws.TableRow.encryptBlock _, Laws.TableRow.anonV4 _,
      Laws.TableRow.anonV6 _, Laws.TableRow.optRewrite _]
  rw [← encode_of_decode h]
  exact hrow

/-- A word of another row than KEY_LOAD's is no running KEY_LOAD. -/
theorem State.keyLoadRunning_of_row_ne {s : State} (h : s.cur &&& 0x0000FFFF ≠ 1) : s.keyLoadRunning = false := by
  rw [State.keyLoadRunning, Bool.and_eq_false_iff]
  right
  split
  · next len hd => exact absurd (row_of_decode hd).1 h
  · rfl

/-- A read of STATUS is exact but for KEY_VALID, which is drawn only while KEY_LOAD runs (R42). -/
theorem State.readTarget_status (s : State) :
    ∃ kv, (s.readTarget .status).1 = s.statusWith kv ∧ (s.keyLoadRunning = false → kv = s.keyValid) := by
  cases hk : s.keyLoadRunning
  · exact ⟨s.keyValid, by simp [State.readTarget, State.readsDraw, hk, State.exactRead, State.status], fun _ => rfl⟩
  · exact ⟨Config.busyKeyValid s.draws, by simp [State.readTarget, State.readsDraw, hk, State.drawnRead], nofun⟩

end Sys2Proof.Machine
end

section
/-! SUPPORT. A host access and the two fields it has nothing to do with, KS and the list of turns; which fields and bytes a step
can change. -/

namespace Sys2Proof.Machine

/-! ### A host access neither reads nor writes KS or the list of turns (R43, R44) -/

/-- The state with another key schedule and other turns: what no host access can tell apart. -/
def State.behindPort (s : State) (ks : KeySchedule) (turns : List Turn) : State := { s with ks := ks, turns := turns }

theorem State.readTarget_behindPort (s : State) (ks : KeySchedule) (ts : List Turn) (t : Target) :
    (s.behindPort ks ts).readTarget t = ((s.readTarget t).1, (s.readTarget t).2.behindPort ks ts) := by
  have hd : (s.behindPort ks ts).readsDraw t = s.readsDraw t := by cases t <;> rfl
  unfold State.readTarget
  rw [hd]
  split <;> cases t <;> rfl

theorem State.writeTarget_behindPort (s : State) (ks : KeySchedule) (ts : List Turn) (v : Word) (t : Target) :
    (s.behindPort ks ts).writeTarget v t = (s.writeTarget v t).behindPort ks ts := by
  have hb : (s.behindPort ks ts).busy = s.busy := rfl
  cases t with
  | cmd | din k | bufWord j => simp only [State.writeTarget, hb]; split <;> rfl
  | status | rdstat | ecscnt | dout k => rfl

/-- A host access commutes with replacing KS and the turns. -/
theorem State.hostAccess_behindPort (s : State) (ks : KeySchedule) (ts : List Turn) (a : BusAccess) :
    (s.behindPort ks ts).hostAccess a = (s.hostAccess a).behindPort ks ts := by
  rcases hostAccess_by_target a with e | ⟨t, rfl⟩ | ⟨v, t, rfl⟩
  · rw [e, e]; rfl
  · rw [State.hostAccess_read_addr, State.readTarget_behindPort, State.hostAccess_read_addr]; rfl
  · rw [State.hostAccess_write_addr, State.writeTarget_behindPort, State.hostAccess_write_addr]; rfl

/-- A host access writes neither KS nor the turns. -/
theorem State.hostAccess_eq_behindPort (s : State) (a : BusAccess) :
    s.hostAccess a = (s.hostAccess a).behindPort s.ks s.turns := s.hostAccess_behindPort s.ks s.turns a

theorem State.hostAccess_setKs (s : State) (ks : KeySchedule) (a : BusAccess) :
    State.hostAccess { s with ks := ks } a = { s.hostAccess a with ks := ks } := by
  rw [s.hostAccess_eq_behindPort a]
  exact s.hostAccess_behindPort ks s.turns a

theorem State.hostAccess_setTurns (s : State) (ts : List Turn) (a : BusAccess) :
    State.hostAccess { s with turns := ts } a = { s.hostAccess a with turns := ts } := by
  rw [s.hostAccess_eq_behindPort a]
  exact s.hostAccess_behindPort s.ks ts a

/-! ### What a host access can change (R26, R27, R41, R49, R50) -/

/-- What a command reports in RDSTAT and ECSCNT (R28, R29). -/
def State.report (s : State) : BitVec 16 × Bool × BitVec 16 := (s.stopOff, s.malformed, s.count)

/-- No host access changes DOUT or a report: they are read-only (R41). -/
theorem State.hostAccess_outputs (s : State) (a : BusAccess) :
    (s.hostAccess a).dout = s.dout ∧ (s.hostAccess a).report = s.report := by
  rcases hostAccess_by_target a with e | ⟨t, rfl⟩ | ⟨v, t, rfl⟩
  · rw [e]; exact ⟨rfl, rfl⟩
  · rw [State.hostAccess_read_addr]
    rcases s.readTarget_state t with e | e <;> rw [e] <;> exact ⟨rfl, rfl⟩
  · rw [State.hostAccess_write_addr]
    rcases s.writeTarget_cases v t with e | e | ⟨-, -, e⟩ | ⟨-, k, -, e⟩ | ⟨-, j, -, e⟩ <;> rw [e] <;>
      simp [State.report]

/-- A byte of DIN that an access changes was written, with BUSY = 0, in the word that holds it. -/
theorem State.din_write_of_hostAccess_ne {s : State} {a : BusAccess} {i : Fin 16}
    (h : (s.hostAccess a).din[i] ≠ s.din[i]) :
    s.busy = false ∧ ∃ v, a = .write (BitVec.ofNat 17 (0x10 + 4 * (i.val / 4))) v := by
  rcases hostAccess_by_target a with e | ⟨t, rfl⟩ | ⟨v, t, rfl⟩
  · rw [e] at h; exact absurd rfl h
  · rw [State.hostAccess_read_addr] at h
    rcases s.readTarget_state t with e | e <;> rw [e] at h <;> exact absurd rfl h
  · rw [State.hostAccess_write_addr, State.respond_din] at h
    rcases s.writeTarget_cases v t with e | e | ⟨-, -, e⟩ | ⟨hb, k, rfl, e⟩ | ⟨-, j, -, e⟩ <;> rw [e] at h
    · exact absurd rfl h
    · exact absurd rfl h
    · exact absurd rfl h
    · have hk : i.val / 4 = k.val := by
        by_contra hk
        exact h ((getElem_setBlockWord s.din k v i).trans (if_neg hk))
      exact ⟨hb, v, by rw [hk]; rfl⟩
    · rw [State.setBufWord_din] at h; exact absurd rfl h

/-- A byte of BUF that an access changes was written, with BUSY = 0, in the word that holds it. -/
theorem State.buf_write_of_hostAccess_ne {s : State} {a : BusAccess} {i : Nat}
    (h : (s.hostAccess a).bufByte i ≠ s.bufByte i) :
    i < 65536 ∧ s.busy = false ∧ ∃ v, a = .write (BitVec.ofNat 17 (0x10000 + 4 * (i / 4))) v := by
  rcases hostAccess_by_target a with e | ⟨t, rfl⟩ | ⟨v, t, rfl⟩
  · rw [e] at h; exact absurd rfl h
  · rw [State.hostAccess_read_addr] at h
    rcases s.readTarget_state t with e | e <;> rw [e] at h <;> exact absurd rfl h
  · rw [State.hostAccess_write_addr] at h
    rcases s.writeTarget_cases v t with e | e | ⟨-, -, e⟩ | ⟨-, k, -, e⟩ | ⟨hb, j, rfl, e⟩ <;> rw [e] at h
    · exact absurd rfl h
    · exact absurd rfl h
    · exact absurd rfl h
    · exact absurd rfl h
    · have hj : i / 4 = j.val := by
        by_contra hj
        exact h (s.bufByte_setBufWord_other v hj)
      have hlt := j.isLt
      exact ⟨by omega, hb, v, by rw [hj]; rfl⟩

/-! ### What a command can change (R39) -/

/-- OPT_REWRITE leaves every byte at or above LEN alone (R129). -/
theorem State.bufByte_rewriteRdata_above (s : State) {len : BitVec 16} {a : Nat} (h : len.toNat ≤ a) :
    (s.rewriteRdata len).bufByte a = s.bufByte a := by
  obtain ⟨hbytes, -⟩ := optRewrite_bounds Config.ecsUnknownFamily s.ks (s.rdata len)
  rw [State.rdata_length] at hbytes
  refine (s.bufByte_setBufBytes 0 _ a).trans (if_neg ?_)
  omega

/-- OPT_REWRITE writes BUF and its report alone (R39). -/
theorem State.rewriteRdata_eq (s : State) (len : BitVec 16) :
    s.rewriteRdata len = { s with
      buf := (s.rewriteRdata len).buf, stopOff := (s.rewriteRdata len).stopOff
      malformed := (s.rewriteRdata len).malformed, count := (s.rewriteRdata len).count } := by
  rw [State.rewriteRdata, State.setBufBytes_eq]
  rfl

theorem CommandResult.din {i : Instr} {s t : State} (h : CommandResult i s t) : t.din = s.din := by
  cases h <;> simp [State.rewriteRdata]

theorem CommandResult.of_dout_ne {i : Instr} {s t : State} (h : CommandResult i s t) (hne : t.dout ≠ s.dout) :
    s.keyValid = true ∧ i.writesDout = true := by
  cases h with
  | doutWritten hi hk b => exact ⟨hk, hi⟩
  | rdataRewritten len hk => exact absurd (State.setBufBytes_dout _ _ _) hne
  | nop | keyInstalled | keyDropped | noKey => exact absurd rfl hne

theorem CommandResult.of_report_ne {i : Instr} {s t : State} (h : CommandResult i s t) (hne : t.report ≠ s.report) :
    s.keyValid = true ∧ ∃ len, i = .optRewrite len := by
  cases h with
  | rdataRewritten len hk => exact ⟨hk, len, rfl⟩
  | nop | keyInstalled | keyDropped | noKey | doutWritten => exact absurd rfl hne

theorem CommandResult.of_bufByte_ne {i : Instr} {s t : State} (h : CommandResult i s t) {a : Nat}
    (hne : t.bufByte a ≠ s.bufByte a) : s.keyValid = true ∧ ∃ len, i = .optRewrite len ∧ a < len.toNat := by
  cases h with
  | rdataRewritten len hk =>
    exact ⟨hk, len, rfl, Nat.lt_of_not_le fun hle => hne (s.bufByte_rewriteRdata_above hle)⟩
  | nop | keyInstalled | keyDropped | noKey | doutWritten => exact absurd rfl hne

/-- A view of the state that ending with an error leaves alone, and that the core's turn changed, was changed by the command
in CUR. -/
theorem command_of_coreTurn_ne {α : Type} (view : State → α)
    (hraise : ∀ (s : State) (e : ErrCode), view (s.raise e) = view s)
    {s t : State} (h : coreTurn s = .next t) (hne : view t ≠ view s) :
    s.busy = true ∧ ∃ i, decode s.cur = .ok i ∧ CommandResult i s t := by
  rcases coreTurn_result h with ⟨-, rfl⟩ | ⟨hb, hc⟩
  · exact absurd rfl hne
  · rcases coreStep_result hc with hi | rfl
    · exact ⟨hb, hi⟩
    · exact absurd (hraise s _) hne

/-- The core's turn never writes DIN (R39). -/
theorem coreTurn_din {s t : State} (h : coreTurn s = .next t) : t.din = s.din := by
  by_contra hne
  obtain ⟨-, i, -, hr⟩ := command_of_coreTurn_ne State.din (fun _ _ => rfl) h hne
  exact hne hr.din

/-- The match values of the rows that write DOUT (R64). -/
theorem rowMatch_of_writesDout {i : Instr} (h : i.writesDout = true) :
    i.rowMatch = 2 ∨ i.rowMatch = 3 ∨ i.rowMatch = 4 := by
  cases i <;> simp_all [Instr.writesDout, Instr.rowMatch]

end Sys2Proof.Machine
end

section
/-! SUPPORT. The statements about the state, the slave port and the step, settled. -/

namespace Sys2Proof.StateProofs

open Sys2Proof.Machine Sys2Proof.Safety

/-! ### Commands (R37 to R39) -/

/-- Settles O9. -/
theorem coreStepCompletes : Obligations.CoreStepCompletes := by
  intro s
  rcases coreStep_cases s with ⟨i, -, e⟩ | ⟨_, -, e⟩
  · obtain ⟨t, ht, hr⟩ := exec_result i s
    exact ⟨t, e.trans ht, hr.busy, hr.err_le⟩
  · exact ⟨_, e, rfl, by simp [ErrCode.code]⟩

/-- Settles O17, by the ways a command can end. -/
theorem commandsWriteOnlyTheirState : Obligations.CommandsWriteOnlyTheirState := by
  intro i s t h
  cases commandResult_of_exec h with
  | nop => rfl
  | keyInstalled => rfl
  | keyDropped => rfl
  | noKey hi hk =>
    cases i with
    | nop | keyLoad => cases hi
    | encryptBlock | anonV4 | anonV6 => rfl
    | optRewrite len => exact ⟨rfl, fun _ _ => rfl⟩
  | doutWritten hi hk b =>
    cases i with
    | nop | keyLoad | optRewrite => cases hi
    | encryptBlock | anonV4 | anonV6 => rfl
  | rdataRewritten len hk =>
    exact ⟨congrArg State.complete (s.rewriteRdata_eq len), fun _ ha => s.bufByte_rewriteRdata_above ha⟩

/-- Settles O18: ERR is not 0 only after NO_KEY and ILLEGAL_OP, which write nothing else, and a KEY_LOAD that drops the key. -/
theorem failedCommandWritesOnlyErr : Obligations.FailedCommandWritesOnlyErr := by
  intro s t h herr
  rcases coreStep_result h with ⟨i, -, hr⟩ | rfl
  · cases hr with
    | nop | keyInstalled | doutWritten | rdataRewritten => exact absurd rfl herr
    | keyDropped => exact .inr ⟨rfl, rfl⟩
    | noKey => exact .inl rfl
  · exact .inl rfl

/-! ### Steps (R20, R37, R180) -/

/-- Settles O6. -/
theorem stepRunsTheCommandInCur : Obligations.StepRunsTheCommandInCur := by
  intro s rest
  have core_busy (ht : s.turns = .core :: rest) (hb : s.busy = true) : step s = coreStep { s with turns := rest } :=
    (step_of_core_turn ht).trans (coreTurn_of_busy hb)
  have none_busy (ht : s.turns = []) (hb : s.busy = true) : step s = coreStep s :=
    (step_of_no_turns ht).trans (coreTurn_of_busy hb)
  refine ⟨core_busy, fun ht hb => (step_of_core_turn ht).trans (coreTurn_of_idle hb), none_busy,
    fun ht hb => (step_of_no_turns ht).trans (coreTurn_of_idle hb), fun i hi => ⟨?_, ?_⟩, fun e he => ⟨?_, ?_⟩⟩
  · exact fun ht hb => (core_busy ht hb).trans (coreStep_of_ok hi)
  · exact fun ht hb => (none_busy ht hb).trans (coreStep_of_ok hi)
  · exact fun ht hb => (core_busy ht hb).trans (coreStep_of_error he)
  · exact fun ht hb => (none_busy ht hb).trans (coreStep_of_error he)

/-- Settles O7. -/
theorem stepMakesTheHostsAccess : Obligations.StepMakesTheHostsAccess := by
  intro s a rest h
  rw [step_of_host_turn h, State.hostAccess_setTurns]

/-- Settles O56. -/
theorem resetEventResetsEverything : Obligations.ResetEventResetsEverything := by
  intro s rest h
  refine ⟨_, step_of_reset_turn h, rfl, rfl, rfl, rfl, rfl, fun i => ?_, fun i => ?_, fun i => ?_, rfl, rfl, rfl,
    fun _ => rfl, rfl⟩
  · exact Vector.getElem_replicate i.isLt
  · exact Vector.getElem_replicate i.isLt
  · exact Vector.getElem_replicate i.isLt

/-! ### The slave port (R41 to R50) -/

/-- Settles O42. -/
theorem addressMapIsExact : Obligations.AddressMapIsExact := by
  refine ⟨decodeAddr_addr, fun addr hal hr => ?_, fun addr => decodeAddr_reserved⟩
  obtain ⟨t, rfl⟩ := exists_target_of_aligned hal hr
  exact ⟨t, rfl, decodeAddr_addr t⟩

/-- Settles O43. -/
theorem commandAcceptance : Obligations.CommandAcceptance := by
  intro s v
  refine (s.hostAccess_write_addr v .cmd).trans ?_
  cases hb : s.busy <;> simp [State.writeTarget, hb, State.accept, State.dropWrite, State.respond]

/-- Settles O45. -/
theorem dinWriteStoresItsWord : Obligations.DinWriteStoresItsWord := by
  intro s k v hb t
  have ht : t = State.respond { s with din := setBlockWord s.din k v } .okay := by
    refine (s.hostAccess_write_addr v (.din k)).trans ?_
    simp [State.writeTarget, hb]
  rw [ht]
  exact ⟨rfl, getElem_setBlockWord s.din k v⟩

/-- Settles O47: the aligned addresses named are those of the read-only registers. -/
theorem readOnlyWritesAreIgnored : Obligations.ReadOnlyWritesAreIgnored := by
  intro s addr v hal hr
  obtain ⟨t, rfl⟩ := exists_target_of_aligned hal (by omega)
  rw [State.hostAccess_write_addr]
  cases t with
  | status | rdstat | ecscnt | dout => rfl
  | cmd => exact absurd hr (by decide)
  | din k => rw [Target.toNat_addr_din] at hr; omega
  | bufWord j => rw [Target.toNat_addr_bufWord] at hr; omega

/-- Settles O49. -/
theorem idleReadsAreExact : Obligations.IdleReadsAreExact := by
  intro s hb
  have read := State.response_read_idle hb
  refine ⟨read .cmd, ⟨s.status, read .status, ?_⟩, ⟨s.rdstat, read .rdstat, ?_⟩, ⟨s.ecscnt, read .ecscnt, ?_⟩,
    fun k m => ⟨_, read (.din k), byteOfWord_blockWord s.din k m⟩,
    fun k m => ⟨_, read (.dout k), byteOfWord_blockWord s.dout k m⟩,
    fun j m => ⟨_, read (.bufWord j), s.byteOfWord_bufWord j.val m⟩⟩
  · refine ⟨?_, ?_, ?_, ?_, s.statusWith_err _, s.statusWith_reserved _⟩ <;>
      simp only [State.status, State.getLsbD_statusWith] <;> rfl
  · exact ⟨s.rdstat_stopOff, s.getLsbD_rdstat 16, s.rdstat_reserved⟩
  · exact ⟨s.ecscnt_count, s.ecscnt_reserved⟩

/-- Settles O50: STATUS is exact but for KEY_VALID, which is drawn only while KEY_LOAD runs. -/
theorem busyReadsThatStayExact : Obligations.BusyReadsThatStayExact := by
  intro s hinv hb
  refine ⟨fun addr hal hr => ?_, s.response_read_addr .cmd, fun k => s.response_read_addr (.din k), ?_⟩
  · obtain ⟨t, rfl⟩ := exists_target_of_aligned hal hr
    exact ⟨_, s.response_read_addr t⟩
  · obtain ⟨kv, hread, hkv⟩ := s.readTarget_status
    refine ⟨s.statusWith kv, ?_, ?_, ?_, ?_, ?_, s.statusWith_reserved kv, fun hrow => ?_⟩
    · rw [← hread]; exact s.response_read_addr .status
    · exact (s.getLsbD_statusWith kv 0).trans hb
    · exact s.getLsbD_statusWith kv 2
    · exact s.getLsbD_statusWith kv 3
    · rw [s.statusWith_err, hinv.errWhileBusy hb]
    · rw [← hkv (State.keyLoadRunning_of_row_ne hrow)]; exact s.getLsbD_statusWith kv 1

/-- A run of accesses commutes with replacing KS. -/
theorem hostAccesses_setKs (s : State) (ks : KeySchedule) (accesses : List BusAccess) :
    hostAccesses { s with ks := ks } accesses = { hostAccesses s accesses with ks := ks } := by
  induction accesses generalizing s with
  | nil => rfl
  | cons a rest ih =>
    rw [hostAccesses, List.foldl_cons, s.hostAccess_setKs ks a]
    exact ih (s.hostAccess a)

/-- Settles O51. -/
theorem keyScheduleIsNotReadable : Obligations.KeyScheduleIsNotReadable := fun s ks accesses =>
  ⟨hostAccesses_setKs s ks accesses, by rw [hostAccesses_setKs]⟩

/-! ### What a step can change -/

/-- Settles O58, by whose turn it is: the core changes only the outputs of the command in CUR, the host only the bytes of the
word it writes. -/
theorem dataChangesOnlyAsNamed : Obligations.DataChangesOnlyAsNamed := by
  intro s t hs hnoreset coreSteps hostWrites
  rcases step_result hs with ⟨hmove, rest, hc⟩ | ⟨a, rest, hturn, rfl⟩ | ⟨rest, hturn, -⟩
  · refine ⟨fun hne => ?_, fun hne => ?_, fun i hne => ?_, fun a hne => ?_⟩
    · obtain ⟨hb, i, hi, hr⟩ := command_of_coreTurn_ne State.dout (fun _ _ => rfl) hc hne
      obtain ⟨hk, hd⟩ := hr.of_dout_ne hne
      rw [(row_of_decode hi).1]
      exact ⟨⟨hb, hk, hmove⟩, rowMatch_of_writesDout hd⟩
    · have hne' : t.report ≠ s.report := by simpa [State.report, imp_iff_not_or] using hne
      obtain ⟨hb, i, hi, hr⟩ := command_of_coreTurn_ne State.report (fun _ _ => rfl) hc hne'
      obtain ⟨hk, len, rfl⟩ := hr.of_report_ne hne'
      exact ⟨⟨hb, hk, hmove⟩, (row_of_decode hi).1⟩
    · exact absurd (by rw [coreTurn_din hc]) hne
    · obtain ⟨hb, i, hi, hr⟩ := command_of_coreTurn_ne (fun s => s.bufByte a) (fun _ _ => rfl) hc hne
      obtain ⟨hk, len, rfl, ha⟩ := hr.of_bufByte_ne hne
      obtain ⟨hrow, hlen⟩ := row_of_decode hi
      exact .inl ⟨⟨hb, hk, hmove⟩, hrow, by rw [hlen]; exact ha⟩
  · obtain ⟨hdout, hreport⟩ := State.hostAccess_outputs { s with turns := rest } a
    refine ⟨fun hne => absurd hdout hne, fun hne => ?_, fun i hne => ?_, fun i hne => ?_⟩
    · simp only [State.report, Prod.mk.injEq] at hreport
      obtain ⟨hstop, hmal, hcount⟩ := hreport
      exact absurd hne (by simp [hstop, hmal, hcount])
    · obtain ⟨hb, v, rfl⟩ := State.din_write_of_hostAccess_ne hne
      exact ⟨hb, v, rest, hturn⟩
    · obtain ⟨hi, hb, v, rfl⟩ := State.buf_write_of_hostAccess_ne hne
      exact .inr ⟨hi, hb, v, rest, hturn⟩
  · exact absurd hturn (hnoreset rest)

end Sys2Proof.StateProofs
end

section
/-! SUPPORT. What the proofs about the memory map cite: a refused access, an idle read, a word of DIN or BUF read back after it is
written, the repetition of a command, and a command run while the host makes its accesses. -/

namespace Sys2Proof.Machine

/-! ### Refused and idle accesses (R46 to R48, R155) -/

theorem decodeAddr_misaligned {addr : BusAddr} (h : addr.toNat % 4 ≠ 0) : decodeAddr addr = .error .misaligned := by
  simp [decodeAddr, h]

/-- An address that the map refuses gets ERROR, read or written, and nothing else happens. -/
theorem State.hostAccess_refused {addr : BusAddr} {e : BusError} (h : decodeAddr addr = .error e) (s : State) (v : Word) :
    s.hostAccess (.read addr) = s.respond .error ∧ s.hostAccess (.write addr v) = s.respond .error := by
  simp [State.hostAccess, h]

/-- With BUSY = 0 a read leaves nothing but its response, which is exact. -/
theorem State.hostAccess_read_idle {s : State} (h : s.busy = false) (t : Target) :
    s.hostAccess (.read t.addr) = s.respond (.okayData (s.exactRead t)) := by
  rw [State.hostAccess_read_addr, State.readTarget_idle h]

/-- The response on the port is no part of what a read returns. -/
theorem State.exactRead_respond (s : State) (r : BusResponse) (t : Target) :
    (s.respond r).exactRead t = s.exactRead t := by
  cases t <;> rfl

/-! ### A word read back (R50, R52, R55) -/

/-- A word is made of its four bytes. -/
theorem wordOfBytes_byteOfWord (w : Word) :
    wordOfBytes (byteOfWord w 0) (byteOfWord w 1) (byteOfWord w 2) (byteOfWord w 3) = w := by
  apply BitVec.eq_of_getLsbD_eq
  intro i hi
  simp only [getLsbD_wordOfBytes, byteOfWord, BitVec.getLsbD_extractLsb']
  grind

/-- Four places that hold the bytes of a word read as that word. -/
theorem wordOfBytes_of_bytes {f : Fin 4 → Byte} {w : Word} (h : ∀ m : Fin 4, f m = byteOfWord w m.val) :
    wordOfBytes (f 0) (f 1) (f 2) (f 3) = w := by
  rw [h, h, h, h]; exact wordOfBytes_byteOfWord w

theorem blockWord_setBlockWord_same (b : Block) (k : Fin 4) (w : Word) : blockWord (setBlockWord b k w) k = w := by
  refine wordOfBytes_of_bytes (f := fun m => (setBlockWord b k w)[4 * k.val + m.val]) fun m => ?_
  have hi := getElem_setBlockWord b k w ⟨4 * k.val + m.val, by omega⟩
  rwa [if_pos (show (4 * k.val + m.val) / 4 = k.val by omega), show (4 * k.val + m.val) % 4 = m.val by omega] at hi

/-- A write of one word of BUF stores its four bytes, byte 0 first (`State.bufByte_setBufWord_other` has the rest). -/
theorem State.bufByte_setBufWord_same (s : State) (j : Nat) (w : Word) (m : Fin 4) :
    (s.setBufWord j w).bufByte (4 * j + m.val) = byteOfWord w m.val := by
  rw [State.setBufWord, State.bufByte_setBufBytes, if_pos (by simp), Nat.add_sub_cancel_left]
  fin_cases m <;> rfl

theorem State.bufWord_setBufWord_same (s : State) (j : Nat) (w : Word) : (s.setBufWord j w).bufWord j = w :=
  wordOfBytes_of_bytes (f := fun m => (s.setBufWord j w).bufByte (4 * j + m.val)) (s.bufByte_setBufWord_same j w)

/-! ### A command run twice (R63, R110) -/

/-- A KEY_LOAD with another LEN than 16 drops the key (R75, R152). -/
theorem execKeyLoad_of_len_ne {len : BitVec 16} (h : len ≠ 16) (s : State) :
    execKeyLoad len s = .next (s.dropKey.raise .invalidKeyLength) := by
  rcases execKeyLoad_cases len s with ⟨h16, -⟩ | ⟨-, e⟩
  · exact absurd h16 h
  · exact e

/-- A command that writes DOUT from what it leaves alone does nothing new the second time, with a key or without. -/
theorem State.withKey_setDout_twice {out : State → Block}
    (hout : ∀ (s : State) (b : Block), out (s.setDout b).complete = out s) (s : State) :
    (s.withKey fun t => t.setDout (out t)).withKey (fun t => t.setDout (out t)) =
      s.withKey fun t => t.setDout (out t) := by
  rcases s.withKey_cases fun t => t.setDout (out t) with ⟨hk, e⟩ | ⟨hk, e⟩ <;> rw [e]
  · rw [State.withKey_of_key (by exact hk), hout]; rfl
  · rw [State.withKey_of_no_key (by exact hk)]; rfl

/-! ### A command does not see the traffic on the port (R51, R56) -/

/-- The state `s` with the WERR bit and the record of traffic of `u`: all that a host can change while BUSY = 1. -/
def State.withTraffic (s u : State) : State :=
  { s with werr := u.werr, response := u.response, turns := u.turns, draws := u.draws }

theorem State.setBufBytes_withTraffic (s u : State) (i : Nat) (vs : List Byte) :
    (s.withTraffic u).setBufBytes i vs = (s.setBufBytes i vs).withTraffic u := by
  induction vs generalizing s i with
  | nil => rfl
  | cons v vs ih => exact ih (s.setBufByte i v) (i + 1)

theorem State.rewriteRdata_withTraffic (s u : State) (len : BitVec 16) :
    (s.withTraffic u).rewriteRdata len = (s.rewriteRdata len).withTraffic u :=
  congrArg (State.setReport · _) (s.setBufBytes_withTraffic u 0 _)

/-- The guard of R37 sees no traffic where the effect sees none. -/
theorem State.withKey_withTraffic {effect : State → State} {u : State}
    (he : ∀ s : State, effect (s.withTraffic u) = (effect s).withTraffic u) (s : State) :
    (s.withTraffic u).withKey effect = (s.withKey effect).withTraffic u := by
  rcases s.withKey_cases effect with ⟨hk, e⟩ | ⟨hk, e⟩ <;> rw [e]
  · rw [State.withKey_of_key (by exact hk), he]; rfl
  · rw [State.withKey_of_no_key (by exact hk)]; rfl

/-- A command under another record of traffic ends in the same state but for that record. -/
theorem exec_withTraffic {i : Instr} {s t : State} (h : exec i s = .next t) (u : State) :
    exec i (s.withTraffic u) = .next (t.withTraffic u) := by
  cases i with
  | nop len => cases h; rfl
  | keyLoad len =>
    rcases execKeyLoad_cases len s with ⟨rfl, e⟩ | ⟨hlen, e⟩ <;> cases e.symm.trans h
    · rfl
    · exact execKeyLoad_of_len_ne hlen _
  | encryptBlock len | anonV4 len | anonV6 len =>
    cases h; exact congrArg Host.Outcome.next (State.withKey_withTraffic (fun _ => rfl) s)
  | optRewrite len =>
    cases h; exact congrArg Host.Outcome.next (State.withKey_withTraffic (fun s => s.rewriteRdata_withTraffic u len) s)

/-- So does the core step. -/
theorem coreStep_withTraffic {s t : State} (h : coreStep s = .next t) (u : State) :
    coreStep (s.withTraffic u) = .next (t.withTraffic u) := by
  rcases coreStep_cases s with ⟨i, hi, e⟩ | ⟨_, he, e⟩ <;> rw [e] at h
  · exact (coreStep_of_ok (s := s.withTraffic u) hi).trans (exec_withTraffic h u)
  · cases h; exact coreStep_of_error he

/-- No command touches the list of turns. -/
theorem CommandResult.turns {i : Instr} {s t : State} (h : CommandResult i s t) : t.turns = s.turns := by
  cases h <;> simp [State.rewriteRdata]

/-- The core step has a next state, with BUSY clear and the turns as they were (R38). -/
theorem coreStep_next (s : State) : ∃ t, coreStep s = .next t ∧ t.busy = false ∧ t.turns = s.turns := by
  rcases coreStep_cases s with ⟨i, -, e⟩ | ⟨_, -, e⟩
  · obtain ⟨t, ht, hr⟩ := exec_result i s
    exact ⟨t, e.trans ht, hr.busy, hr.turns⟩
  · exact ⟨_, e, rfl, rfl⟩

/-- A run goes on from the state that its first step leaves. -/
theorem run_succ {M : Host.Core} {s t : M.State} (h : M.step s = .next t) (k : Nat) : M.run (k + 1) s = M.run k t := by
  simp [Host.Core.run, h]

end Sys2Proof.Machine

namespace Sys2Proof.Safety

open Sys2Proof.Machine

/-! ### Host accesses while a command runs (R51, R157) -/

theorem SameBlock.trans {s t u : State} (hst : SameBlock s t) (htu : SameBlock t u) : SameBlock s u := by
  unfold SameBlock at *
  rw [htu, hst]

theorem SameBlock.busy_eq {s t : State} (h : SameBlock s t) : t.busy = s.busy := by rw [h]

/-- One host access while a command runs leaves the block as it is. -/
theorem SameBlock.hostAccess {s : State} (h : s.busy = true) (a : BusAccess) : SameBlock s (s.hostAccess a) := by
  rcases s.hostAccess_cases a with e | ⟨t, e⟩ | ⟨v, t, e⟩ <;> rw [e]
  · rfl
  · rcases s.readTarget_state t with e | e <;> rw [e] <;> rfl
  · rcases State.writeTarget_busy h v t with e | e <;> rw [e] <;> rfl

/-- So does every row of them. -/
theorem SameBlock.hostAccesses {s : State} (h : s.busy = true) (accesses : List BusAccess) :
    SameBlock s (hostAccesses s accesses) := by
  induction accesses generalizing s with
  | nil => rfl
  | cons a rest ih =>
    have first := SameBlock.hostAccess h a
    exact first.trans (ih (first.busy_eq.trans h))

end Sys2Proof.Safety
end

section
/-! SUPPORT. The statements about the memory map and about repeated, disturbed and polled commands, settled. -/

namespace Sys2Proof.MemoryProofs

open Sys2Proof.Machine Sys2Proof.Safety

/-! ### Refused accesses (R46, R47) -/

/-- Settles O40. -/
theorem misalignedAccessGetsError : Obligations.MisalignedAccessGetsError := by
  intro s addr v hlow
  have hmis : addr.toNat % 4 ≠ 0 := fun h => hlow (BitVec.eq_of_toNat_eq (by simpa using h))
  exact State.hostAccess_refused (decodeAddr_misaligned hmis) s v

/-- Settles O41. -/
theorem reservedOffsetGetsError : Obligations.ReservedOffsetGetsError := fun s _ v hal hlo hhi =>
  State.hostAccess_refused (decodeAddr_reserved hal hlo (Nat.lt_succ_of_le hhi)) s v

/-! ### Reads and writes (R48 to R50, R52, R55) -/

/-- Settles O44. -/
theorem bufWordWriteStoresFourBytes : Obligations.BufWordWriteStoresFourBytes := by
  intro s j v hb t
  have ht : t = (s.setBufWord j.val v).respond .okay := by
    refine (s.hostAccess_write_addr v (.bufWord j)).trans ?_
    simp [State.writeTarget, hb]
  refine ⟨by rw [ht, State.setBufWord, State.setBufBytes_eq]; rfl, fun a => ?_⟩
  rw [show t.bufByte a = (s.setBufWord j.val v).bufByte a by rw [ht]; rfl]
  split_ifs with h0 h1 h2 h3
  · subst h0; exact s.bufByte_setBufWord_same j.val v 0
  · subst h1; exact s.bufByte_setBufWord_same j.val v 1
  · subst h2; exact s.bufByte_setBufWord_same j.val v 2
  · subst h3; exact s.bufByte_setBufWord_same j.val v 3
  · exact s.bufByte_setBufWord_other v (by omega)

/-- Settles O46: the aligned addresses named are those of the words of DIN and BUF. -/
theorem readReturnsTheLastWrite : Obligations.ReadReturnsTheLastWrite := by
  intro s addr v hb hal hr
  obtain ⟨t, rfl⟩ := exists_target_of_aligned hal (by omega)
  have written : (s.writeTarget v t).busy = false ∧ (s.writeTarget v t).exactRead t = v := by
    cases t with
    | din k => simp [State.writeTarget, hb, State.exactRead, blockWord_setBlockWord_same]
    | bufWord j => simp [State.writeTarget, hb, State.exactRead, State.bufWord_setBufWord_same]
    | cmd | status | rdstat | ecscnt => exact absurd hr (by decide)
    | dout k => rw [Target.toNat_addr_dout] at hr; omega
  obtain ⟨hidle, hread⟩ := written
  rw [State.hostAccess_write_addr, State.response_read_idle (by exact hidle), State.exactRead_respond, hread]

/-- Settles O48. -/
theorem readsHaveNoSideEffect : Obligations.ReadsHaveNoSideEffect := by
  intro s addr t
  rcases hostAccess_by_target (.read addr) with e | ⟨g, hg⟩ | ⟨v, g, hg⟩
  · rw [show t = s.respond .error from e s, e]
    exact ⟨rfl, fun _ => ⟨rfl, rfl⟩⟩
  · cases hg
    refine ⟨?_, fun hb => ?_⟩
    · rw [show t = _ from s.hostAccess_read_addr g]
      rcases s.readTarget_state g with e | e <;> rw [e] <;> rfl
    · rw [show t = _ from State.hostAccess_read_idle hb g]
      refine ⟨rfl, ?_⟩
      rw [State.hostAccess_read_idle (by exact hb), State.exactRead_respond]
      rfl
  · cases hg

/-! ### Repeated commands (R63, R110) -/

/-- Settles O22: each of the five commands computes from what it does not write. -/
theorem repeatedCommandChangesNothing : Obligations.RepeatedCommandChangesNothing := by
  intro i s t hopt h
  cases i with
  | nop len => cases h; rfl
  | keyLoad len =>
    rcases execKeyLoad_cases len s with ⟨rfl, e⟩ | ⟨hlen, e⟩ <;> cases e.symm.trans h
    · rfl
    · exact execKeyLoad_of_len_ne hlen _
  | encryptBlock len | anonV4 len | anonV6 len =>
    cases h; exact congrArg Host.Outcome.next (State.withKey_setDout_twice (fun _ _ => rfl) s)
  | optRewrite len => exact absurd rfl (hopt len)

/-! ### A command and the host (R51, R56, R57) -/

/-- Settles O52: the host leaves nothing but another record of traffic, which the core step does not see. -/
theorem hostCannotDisturbARunningCommand : Obligations.HostCannotDisturbARunningCommand := by
  intro s accesses hb
  obtain ⟨t, ht, -⟩ := coreStep_next s
  refine ⟨t, t.withTraffic (hostAccesses s accesses), ht, ?_, rfl⟩
  rw [show hostAccesses s accesses = s.withTraffic (hostAccesses s accesses) from SameBlock.hostAccesses hb accesses]
  exact coreStep_withTraffic ht _

/-- Settles O59, by induction on the early reads, each of which leaves the command running. -/
theorem pollEndsWithBusyClear : Obligations.PollEndsWithBusyClear := by
  intro s early rest hb hturns
  induction early generalizing s with
  | zero =>
    obtain ⟨t, ht, hidle, hleft⟩ := coreStep_next { s with turns := .host (.read (Target.addr .status)) :: rest }
    have first : step s = .next t := by rw [step_of_core_turn hturns, coreTurn_of_busy (by exact hb)]; exact ht
    have second := StateProofs.stepMakesTheHostsAccess t _ rest hleft
    rw [State.hostAccess_read_idle hidle] at second
    refine ⟨_, (run_succ (M := core) first 1).trans (run_succ (M := core) second 0), hidle, rfl, rfl, ?_⟩
    exact (State.getLsbD_statusWith _ _ 0).trans hidle
  | succ early ih =>
    have first := StateProofs.stepMakesTheHostsAccess s _ _ hturns
    have running := (SameBlock.hostAccess hb (.read (Target.addr .status))).busy_eq
    obtain ⟨t, hrun, hend⟩ := ih
      { s.hostAccess (.read (Target.addr .status)) with turns := pollTurns early ++ rest } (running.trans hb) rfl
    exact ⟨t, (run_succ (M := core) first (early + 2)).trans hrun, hend⟩

end Sys2Proof.MemoryProofs
end

section
/-! SUPPORT. What the decoder makes of an encoded word (R64 to R69), when a word decodes to an instruction, and the core step of
a row that ignores LEN (R65). -/

namespace Sys2Proof.Machine

/-! ### The fields and halves of a word (R24) -/

/-- A word put together from its three fields holds them. -/
theorem fields_append (len : BitVec 16) (rsvd : BitVec 12) (op : BitVec 4) :
    lenField (len ++ rsvd ++ op : Word) = len ∧ rsvdField (len ++ rsvd ++ op : Word) = rsvd ∧
      opField (len ++ rsvd ++ op : Word) = op := by
  refine ⟨?_, ?_, BitVec.extractLsb'_append_eq_right⟩
  · rw [lenField, BitVec.extractLsb'_append_eq_of_le (by decide)]
    exact BitVec.extractLsb'_append_eq_left
  · rw [rsvdField, BitVec.extractLsb'_append_eq_of_le (by decide)]
    exact BitVec.extractLsb'_append_eq_right

theorem toNat_lowHalf (w : Word) : (w &&& 0x0000FFFF).toNat = w.toNat % 65536 :=
  (BitVec.toNat_and w 0x0000FFFF).trans (Nat.and_two_pow_sub_one_eq_mod w.toNat 16)

theorem toNat_lenField (w : Word) : (lenField w).toNat = w.toNat / 65536 := by
  have hw := w.isLt
  rw [lenField, BitVec.extractLsb'_toNat, Nat.shiftRight_eq_div_pow]
  omega

/-- A word is its low half and its LEN. -/
theorem word_eq_of_halves {w v : Word} (hlow : w &&& 0x0000FFFF = v &&& 0x0000FFFF) (hlen : lenField w = lenField v) :
    w = v := by
  have low := congrArg BitVec.toNat hlow
  have high := congrArg BitVec.toNat hlen
  rw [toNat_lowHalf, toNat_lowHalf] at low
  rw [toNat_lenField, toNat_lenField] at high
  exact BitVec.eq_of_toNat_eq (by omega)

/-! ### Encoding and decoding (R64, R69) -/

theorem opOf_le (i : Instr) : opOf i ≤ 0x5 := by cases i <;> simp [opOf]

/-- The row that an instruction's OP selects is its own. -/
theorem instrOfOp_opOf (i : Instr) : instrOfOp (opOf i) i.len = some i := by cases i <;> rfl

theorem decode_encode (i : Instr) : decode (encode i) = .ok i := by
  obtain ⟨hlen, hrsvd, hop⟩ := fields_append i.len 0 (opOf i)
  rw [decode, encode, if_neg (not_not.mpr hrsvd), hop, hlen, instrOfOp_opOf]

theorem decode_eq_ok_iff {w : Word} {i : Instr} : decode w = .ok i ↔ encode i = w :=
  ⟨encode_of_decode, fun h => h ▸ decode_encode i⟩

/-- A word decodes to an instruction exactly when it matches its row and carries its LEN. -/
theorem decode_eq_ok_iff_row {w : Word} {i : Instr} :
    decode w = .ok i ↔ w &&& 0x0000FFFF = i.rowMatch ∧ lenField w = i.len := by
  refine ⟨row_of_decode, fun ⟨hrow, hlen⟩ => decode_eq_ok_iff.mpr ?_⟩
  obtain ⟨hrow', hlen'⟩ := row_of_decode (decode_encode i)
  exact word_eq_of_halves (hrow'.trans hrow.symm) (hlen'.trans hlen.symm)

/-- A command word as a number: LEN shifted over OP. -/
theorem encode_eq_ofNat (i : Instr) : encode i = BitVec.ofNat 32 (i.len.toNat <<< 16 ||| (opOf i).toNat) := by
  have h : (encode i).toNat = i.len.toNat <<< 16 ||| (opOf i).toNat := by
    rw [encode, BitVec.toNat_append, BitVec.toNat_append]
    simp [← Nat.shiftLeft_add]
  rw [← h, BitVec.ofNat_toNat, BitVec.setWidth_eq]

/-- What a mnemonic with operand `n` writes to CMD, which stands at address 0 (R71). -/
theorem commandTurns_ofNat {i : Instr} {n : Nat} (hn : n < 65536) (hlen : i.len = BitVec.ofNat 16 n) :
    commandTurns i = [.host (.write 0 (BitVec.ofNat 32 (n <<< 16 ||| (opOf i).toNat)))] := by
  rw [commandTurns, encode_eq_ofNat, hlen, BitVec.toNat_ofNat, Nat.mod_eq_of_lt hn]
  rfl

/-! ### The rows that ignore LEN (R65) -/

/-- The guard for a key reads and changes no part of CUR. -/
theorem State.withKey_withCur {effect : State → State}
    (he : ∀ s v, effect { s with cur := v } = { effect s with cur := v }) (s : State) (v : Word) :
    State.withKey { s with cur := v } effect = { s.withKey effect with cur := v } := by
  rcases s.withKey_cases effect with ⟨hk, e⟩ | ⟨hk, e⟩ <;> rw [e]
  · rw [State.withKey_of_key (by exact hk), he]; rfl
  · rw [State.withKey_of_no_key (by exact hk)]; rfl

/-- The core steps of two words of a row `c` that means one function `f` of the state, whatever LEN is. -/
theorem coreSteps_agree_of_ignored_len (c : BitVec 16 → Instr) {f : State → State}
    (hlen : ∀ len, (c len).len = len) (hexec : ∀ len s, exec (c len) s = .next (f s))
    (hcur : ∀ s v, f { s with cur := v } = { f s with cur := v })
    {w w' : Word} (hlow : w &&& 0x0000FFFF = w' &&& 0x0000FFFF)
    (hrow : ∀ len, w &&& 0x0000FFFF = (c len).rowMatch) (s : State) :
    ∃ t, coreStep { s with cur := w } = .next t ∧ coreStep { s with cur := w' } = .next { t with cur := w' } := by
  have run {v : Word} (hv : w &&& 0x0000FFFF = v &&& 0x0000FFFF) :
      coreStep { s with cur := v } = .next { f s with cur := v } := by
    have hdec : decode v = .ok (c (lenField v)) := decode_eq_ok_iff_row.mpr ⟨hv.symm.trans (hrow _), (hlen _).symm⟩
    rw [coreStep_of_ok (by exact hdec), hexec, hcur]
  exact ⟨_, run rfl, run hlow⟩

end Sys2Proof.Machine
end

section
/-! SUPPORT. The statements about command words, settled. -/

namespace Sys2Proof.EncodingProofs

open Sys2Proof.Machine

/-- Settles O1. -/
theorem decodeOfEncodeIsIdentity : Obligations.DecodeOfEncodeIsIdentity := fun i _ => decode_encode i

/-- Settles O2. -/
theorem wordSelectsItsRow : Obligations.WordSelectsItsRow := fun _ _ => decode_eq_ok_iff_row

/-- Settles O4: a word that decodes has RSVD = 0 and the OP of a row, so such a word does not decode. -/
theorem illegalWordRaisesIllegalOp : Obligations.IllegalWordRaisesIllegalOp := by
  intro s hbad
  rcases coreStep_cases s with ⟨i, hi, -⟩ | ⟨_, -, e⟩
  · obtain ⟨hrsvd, hop, -⟩ := fields_of_decode hi
    rcases hbad with hne | hgt
    · exact absurd hrsvd hne
    · exact absurd (hop ▸ opOf_le i : opField s.cur ≤ 0x5) (BitVec.not_le.mpr hgt)
  · exact e

/-- Settles O5: each of the four rows means one function of the state, whatever LEN is. -/
theorem ignoredLenNeverMatters : Obligations.IgnoredLenNeverMatters := by
  intro s w w' hlow hrow
  rcases hrow with h | h | h | h
  · exact coreSteps_agree_of_ignored_len .nop (fun _ => rfl) (fun _ _ => rfl) (fun _ _ => rfl) hlow (fun _ => h) s
  · exact coreSteps_agree_of_ignored_len .encryptBlock (fun _ => rfl) (fun _ _ => rfl)
      (State.withKey_withCur fun _ _ => rfl) hlow (fun _ => h) s
  · exact coreSteps_agree_of_ignored_len .anonV4 (fun _ => rfl) (fun _ _ => rfl)
      (State.withKey_withCur fun _ _ => rfl) hlow (fun _ => h) s
  · exact coreSteps_agree_of_ignored_len .anonV6 (fun _ => rfl) (fun _ _ => rfl)
      (State.withKey_withCur fun _ _ => rfl) hlow (fun _ => h) s

/-- Settles O3: eight words of the table are the encodings of their rows, and the two reserved words are refused. -/
theorem writtenOutWordsDecode : Obligations.WrittenOutWordsDecode := by
  unfold Obligations.WrittenOutWordsDecode
  simp only [decode_eq_ok_iff]
  decide

/-- Settles O60. -/
theorem mnemonicsWriteTheirWords : Obligations.MnemonicsWriteTheirWords := fun _ _ hn =>
  ⟨rfl, commandTurns_ofNat hn rfl, rfl, rfl, rfl, commandTurns_ofNat hn rfl⟩

end Sys2Proof.EncodingProofs
end

section
/-! SUPPORT. Which commands and accesses touch the key (R30, R77), the core step of a NOP word (R76), and the words of the key
schedule one by one (R72 to R74). -/

namespace Sys2Proof.Machine

/-! ### What can change the key (R30, R77) -/

/-- The key as the block holds it: KS and KEY_VALID. -/
def State.key (s : State) : KeySchedule × Bool := (s.ks, s.keyValid)

theorem State.key_ne_iff {s t : State} : t.key ≠ s.key ↔ t.ks ≠ s.ks ∨ t.keyValid ≠ s.keyValid := by
  simp [State.key, imp_iff_not_or]

/-- No write of a target touches the key: acceptance checks nothing and no address names KS (R36, R45). -/
theorem State.writeTarget_key (s : State) (v : Word) (t : Target) : (s.writeTarget v t).key = s.key := by
  rcases s.writeTarget_cases v t with e | e | ⟨-, -, e⟩ | ⟨-, k, -, e⟩ | ⟨-, j, -, e⟩ <;> rw [e]
  · rfl
  · rfl
  · rfl
  · simp [State.key]

/-- No host access touches the key. -/
theorem State.hostAccess_key (s : State) (a : BusAccess) : (s.hostAccess a).key = s.key := by
  rcases s.hostAccess_cases a with e | ⟨t, e⟩ | ⟨v, t, e⟩ <;> rw [e]
  · rfl
  · rcases s.readTarget_state t with e | e <;> rw [e] <;> rfl
  · exact s.writeTarget_key v t

/-- A command that changes the key is a KEY_LOAD. -/
theorem CommandResult.of_key_ne {i : Instr} {s t : State} (h : CommandResult i s t) (hne : t.key ≠ s.key) :
    ∃ len, i = .keyLoad len := by
  cases h with
  | keyInstalled => exact ⟨16, rfl⟩
  | keyDropped => exact ⟨_, rfl⟩
  | rdataRewritten len hk => rw [State.rewriteRdata_eq] at hne; exact absurd rfl hne
  | nop | noKey | doutWritten => exact absurd rfl hne

/-! ### NOP (R76) -/

/-- A word of NOP's row completes and does nothing else, whatever its LEN is. -/
theorem coreStep_of_nop_row {s : State} (h : s.cur &&& 0x0000FFFF = 0) : coreStep s = .next s.complete :=
  coreStep_of_ok (i := .nop (lenField s.cur)) (decode_eq_ok_iff_row.mpr ⟨h, rfl⟩)

/-! ### RotWord, SubWord and Rcon (R73, R74) -/

theorem rotWord_wordOfBytes (b0 b1 b2 b3 : Byte) :
    rotWord (wordOfBytes b0 b1 b2 b3) = wordOfBytes b1 b2 b3 b0 := by
  obtain ⟨h0, h1, h2, h3⟩ := byteOfWord_wordOfBytes b0 b1 b2 b3
  rw [rotWord, h0, h1, h2, h3]

theorem subWord_wordOfBytes (b0 b1 b2 b3 : Byte) :
    subWord (wordOfBytes b0 b1 b2 b3) = wordOfBytes (sbox b0) (sbox b1) (sbox b2) (sbox b3) := by
  obtain ⟨h0, h1, h2, h3⟩ := byteOfWord_wordOfBytes b0 b1 b2 b3
  rw [subWord, h0, h1, h2, h3]

theorem rcon_succ {j : Nat} (hlo : 1 ≤ j) (hhi : j < 10) : rcon (j + 1) = xtime (rcon j) := by
  interval_cases j <;> rfl

/-! ### The words of the key schedule (R72) -/

/-- The expansion after `n` of its forty steps: the words w[0..n + 4). -/
def expandSteps (k : Block) (n : Nat) : List Word :=
  (List.range' 4 n).foldl (fun ws i => ws ++ [expandWord ws i])
    [blockWord k 0, blockWord k 1, blockWord k 2, blockWord k 3]

theorem expandList_eq_expandSteps (k : Block) : expandList k = expandSteps k 40 := rfl

theorem expandSteps_succ (k : Block) (n : Nat) :
    expandSteps k (n + 1) = expandSteps k n ++ [expandWord (expandSteps k n) (n + 4)] := by
  simp [expandSteps, List.range'_concat, Nat.add_comm]

theorem expandSteps_length (k : Block) (n : Nat) : (expandSteps k n).length = n + 4 := by
  induction n with
  | zero => rfl
  | succ n ih => rw [expandSteps_succ, List.length_append, ih, List.length_singleton, Nat.add_right_comm]

/-- A word once made stays: the later steps only append. -/
theorem expandSteps_getD_of_le (k : Block) {n m i : Nat} (hi : i < n + 4) (hm : n ≤ m) :
    (expandSteps k m).getD i 0 = (expandSteps k n).getD i 0 := by
  induction m, hm using Nat.le_induction with
  | base => rfl
  | succ m hm ih =>
    rw [expandSteps_succ, List.getD_append _ _ _ _ (by rw [expandSteps_length]; omega), ih]

/-- Step `n` makes word `n + 4` from the words before it. -/
theorem expandSteps_getD_new (k : Block) (n : Nat) :
    (expandSteps k (n + 1)).getD (n + 4) 0 = expandWord (expandSteps k n) (n + 4) := by
  rw [expandSteps_succ, List.getD_append_right _ _ _ _ (expandSteps_length k n).le, expandSteps_length, Nat.sub_self]
  rfl

/-- A new word rests on words i - 1 and i - 4 alone. -/
theorem expandWord_congr {ws vs : List Word} {i : Nat} (h1 : ws.getD (i - 1) 0 = vs.getD (i - 1) 0)
    (h4 : ws.getD (i - 4) 0 = vs.getD (i - 4) 0) : expandWord ws i = expandWord vs i := by
  rw [expandWord, expandWord, h1, h4]

/-- Each word of the whole expansion behind the first four is made from the words of the whole expansion. -/
theorem expandList_getD_eq_expandWord (k : Block) {i : Nat} (hlo : 4 ≤ i) (hhi : i < 44) :
    (expandList k).getD i 0 = expandWord (expandList k) i := by
  obtain ⟨n, rfl⟩ : ∃ n, i = n + 4 := ⟨i - 4, by omega⟩
  have earlier {j : Nat} (hj : j < n + 4) : (expandSteps k n).getD j 0 = (expandSteps k 40).getD j 0 :=
    (expandSteps_getD_of_le k hj (by omega)).symm
  rw [expandList_eq_expandSteps]
  calc (expandSteps k 40).getD (n + 4) 0
    _ = (expandSteps k (n + 1)).getD (n + 4) 0 := expandSteps_getD_of_le k (by omega) (by omega)
    _ = expandWord (expandSteps k n) (n + 4) := expandSteps_getD_new k n
    _ = expandWord (expandSteps k 40) (n + 4) := expandWord_congr (earlier (by omega)) (earlier (by omega))

/-- The first four words are those of the key. -/
theorem expandList_getD_key (k : Block) (i : Fin 4) : (expandList k).getD i.val 0 = blockWord k i := by
  rw [expandList_eq_expandSteps, expandSteps_getD_of_le k (n := 0) (by omega) (by omega)]
  fin_cases i <;> rfl

/-- KS holds all the words of the expansion and no other. -/
theorem keyExpand_toList (k : Block) : (keyExpand k).toList = expandList k := by
  have hlen : (expandList k).length = 44 := expandSteps_length k 40
  apply List.ext_getElem
  · rw [Vector.length_toList, hlen]
  · intro i hi hi'
    simp [keyExpand, hi']

end Sys2Proof.Machine
end

section
/-! SUPPORT. The statements about the key, settled. -/

namespace Sys2Proof.KeyProofs

open Sys2Proof.Machine

/-- Settles O10. -/
theorem nopOnlyClearsStatus : Obligations.NopOnlyClearsStatus :=
  ⟨fun _ _ => rfl, fun s w h => coreStep_of_nop_row (s := s.accept w) h⟩

/-- Settles O25: KS is the list that the expansion builds, in which each word is made from words that stay. -/
theorem keyExpandFollowsItsRecurrence : Obligations.KeyExpandFollowsItsRecurrence := by
  intro k w
  have hw (i : Nat) : w i = (expandList k).getD i 0 := by rw [← keyExpand_toList]
  have made {i : Nat} (hlo : 4 ≤ i) (hhi : i < 44) : w i = expandWord (expandList k) i :=
    (hw i).trans (expandList_getD_eq_expandWord k hlo hhi)
  refine ⟨fun i => (hw i).trans (expandList_getD_key k i), fun i hlo hhi hi => ?_, fun i hlo hhi hi => ?_,
    fun b0 b1 b2 b3 => ⟨rotWord_wordOfBytes b0 b1 b2 b3, subWord_wordOfBytes b0 b1 b2 b3⟩, rfl, fun _ => rcon_succ⟩
  · rw [made hlo hhi, expandWord, if_neg hi, hw, hw]
  · rw [made hlo hhi, expandWord, if_pos hi, hw, hw]

/-- Settles O57, by whose turn it is: the core changes the key only in a KEY_LOAD, and the host never. -/
theorem keyChangesOnlyByKeyLoadOrReset : Obligations.KeyChangesOnlyByKeyLoadOrReset := by
  intro s t hs hne
  have hkey : t.key ≠ s.key := State.key_ne_iff.mpr hne
  rcases step_result hs with ⟨hmove, rest, hc⟩ | ⟨a, rest, -, rfl⟩ | ⟨rest, hturn, -⟩
  · obtain ⟨hb, i, hi, hr⟩ := command_of_coreTurn_ne State.key (fun _ _ => rfl) hc hkey
    obtain ⟨len, rfl⟩ := hr.of_key_ne hkey
    exact .inl ⟨hb, (row_of_decode hi).1, hmove⟩
  · exact absurd (State.hostAccess_key { s with turns := rest } a) hkey
  · exact .inr ⟨rest, hturn⟩

end Sys2Proof.KeyProofs
end

section
/-! SUPPORT. The product of GF(2^8) and the S-box (R91, R96): the product is the multiplication of a commutative ring in which
every byte but 0 has an inverse, and the S-box, its affine map undone, is that inverse. -/

namespace Sys2Proof.Machine

/-! ### Exclusive or of bytes -/

theorem xor_left_comm (a b c : Byte) : a ^^^ (b ^^^ c) = b ^^^ (a ^^^ c) := by
  rw [← BitVec.xor_assoc, BitVec.xor_comm a b, BitVec.xor_assoc]

@[simp] theorem xor_xor_cancel_left (a b : Byte) : a ^^^ (a ^^^ b) = b := by
  rw [← BitVec.xor_assoc, BitVec.xor_self, BitVec.zero_xor]

/-! ### xtime (R96) -/

theorem xtime_xor (a b : Byte) : xtime (a ^^^ b) = xtime a ^^^ xtime b := by
  simp only [xtime, BitVec.shiftLeft_xor_distrib, BitVec.getLsbD_xor]
  cases a.getLsbD 7 <;> cases b.getLsbD 7 <;> simp [BitVec.xor_assoc, BitVec.xor_comm, xor_left_comm]

theorem xtime_iterate_xor (n : Nat) (a b : Byte) : xtime^[n] (a ^^^ b) = xtime^[n] a ^^^ xtime^[n] b :=
  Function.Semiconj₂.iterate (op := (· ^^^ ·)) xtime_xor n a b

/-- A map of bytes that respects sums and the doubling. It is linear over GF(2^8), so it respects every product. -/
structure XtimeLinear (f : Byte → Byte) : Prop where
  map_xor : ∀ a b, f (a ^^^ b) = f a ^^^ f b
  map_xtime : ∀ a, f (xtime a) = xtime (f a)

theorem xtimeLinear_xtime : XtimeLinear xtime := ⟨xtime_xor, fun _ => rfl⟩

theorem XtimeLinear.map_zero {f : Byte → Byte} (hf : XtimeLinear f) : f 0 = 0 := by
  simpa using hf.map_xor 0 0

theorem XtimeLinear.map_gmulBits {f : Byte → Byte} (hf : XtimeLinear f) (a b : Byte) (n : Nat) :
    f (gmulBits a b n) = gmulBits (f a) b n := by
  induction n with
  | zero => exact hf.map_zero
  | succ n ih =>
    have hdouble : f (xtime^[n] a) = xtime^[n] (f a) := Function.Commute.iterate_right hf.map_xtime n a
    rw [gmulBits, hf.map_xor, ih, apply_ite f, hdouble, hf.map_zero, gmulBits]

theorem XtimeLinear.map_gmul {f : Byte → Byte} (hf : XtimeLinear f) (a b : Byte) : f (gmul a b) = gmul (f a) b :=
  hf.map_gmulBits a b 8

/-! ### gmul (R96) -/

theorem gmulBits_xor_left (a b c : Byte) (n : Nat) :
    gmulBits (a ^^^ b) c n = gmulBits a c n ^^^ gmulBits b c n := by
  induction n with
  | zero => exact BitVec.xor_self.symm
  | succ n ih =>
    rw [gmulBits, gmulBits, gmulBits, ih, xtime_iterate_xor]
    cases c.getLsbD n
    · simp
    · simp [BitVec.xor_assoc, xor_left_comm]

theorem xtimeLinear_gmul_left (b : Byte) : XtimeLinear (gmul · b) :=
  ⟨fun a a' => gmulBits_xor_left a a' b 8, fun a => (xtimeLinear_xtime.map_gmul a b).symm⟩

theorem one_gmul : ∀ b : Byte, gmul 1 b = b := by decide

/-- Both sides are the product by `b` of the map that multiplies by `a` from the right. -/
theorem gmul_comm (a b : Byte) : gmul a b = gmul b a := by
  have h : gmul (gmul 1 b) a = gmul (gmul 1 a) b := (xtimeLinear_gmul_left a).map_gmul 1 b
  rw [one_gmul, one_gmul] at h
  exact h.symm

theorem xtimeLinear_gmul_right (a : Byte) : XtimeLinear (gmul a) := by
  rw [funext (gmul_comm a)]
  exact xtimeLinear_gmul_left a

theorem gmul_assoc (a b c : Byte) : gmul (gmul a b) c = gmul a (gmul b c) :=
  ((xtimeLinear_gmul_right a).map_gmul b c).symm

@[simp] theorem gmul_one (a : Byte) : gmul a 1 = a := by rw [gmul_comm, one_gmul]

/-- 2 is xtime(1). -/
theorem gmul_two (a : Byte) : gmul a 2 = gmul2 a := by
  have h := (xtimeLinear_gmul_right a).map_xtime 1
  rwa [gmul_one] at h

/-- 3 is 2 + 1. -/
theorem gmul_three (a : Byte) : gmul a 3 = gmul3 a := by
  have h := (xtimeLinear_gmul_right a).map_xor 2 1
  rwa [gmul_two, gmul_one] at h

/-! ### The S-box (R91) -/

/-- The inverse of the affine map of R91. -/
def invAffine (b : Byte) : Byte := b.rotateLeft 1 ^^^ b.rotateLeft 3 ^^^ b.rotateLeft 6 ^^^ 0x05

theorem affine_invAffine : ∀ b : Byte, affine (invAffine b) = b := by decide

/-- The table entry of `x`, its affine map undone, is the inverse of `x`. -/
theorem gmul_invAffine_sbox : ∀ x : Byte, x ≠ 0 → gmul x (invAffine (sbox x)) = 1 := by decide

theorem eq_of_gmul_eq_one {x y z : Byte} (hx : gmul x z = 1) (hy : gmul y z = 1) : x = y :=
  calc x
    _ = gmul x (gmul y z) := by rw [hy, gmul_one]
    _ = gmul (gmul x z) y := by rw [gmul_comm y z, gmul_assoc]
    _ = y := by rw [hx, one_gmul]

theorem sbox_ne_sbox_zero {x : Byte} (hx : x ≠ 0) : sbox x ≠ sbox 0 := by
  intro h
  have h1 : gmul x (invAffine (sbox 0)) = 1 := h ▸ gmul_invAffine_sbox x hx
  have h0 : gmul x (invAffine (sbox 0)) = 0 := (xtimeLinear_gmul_right x).map_zero
  exact absurd (h1.symm.trans h0) (by decide)

/-- Two bytes with one entry are 0 both, or have one inverse. -/
theorem sbox_injective : Function.Injective sbox := by
  intro x y h
  by_cases hx : x = 0
  · subst hx
    by_contra hy
    exact sbox_ne_sbox_zero (Ne.symm hy) h.symm
  · by_cases hy : y = 0
    · subst hy
      exact absurd h (sbox_ne_sbox_zero hx)
    · exact eq_of_gmul_eq_one (gmul_invAffine_sbox x hx) (h ▸ gmul_invAffine_sbox y hy)

end Sys2Proof.Machine
end

section
/-! SUPPORT. The steps of a round byte by byte (R93 to R97), the cipher as a chain of rounds (R92), and that no step maps two
blocks to one (R99). -/

namespace Sys2Proof.Machine

/-! ### Row r, column c (R93) -/

theorem block_ext {a b : Block} (h : ∀ r c : Fin 4, a[r.val + 4 * c.val] = b[r.val + 4 * c.val]) : a = b := by
  apply Vector.ext
  intro i hi
  have hrc := h ⟨i % 4, by omega⟩ ⟨i / 4, by omega⟩
  simpa only [Nat.mod_add_div] using hrc

theorem subBytes_getElem (b : Block) (r c : Fin 4) :
    (subBytes b)[r.val + 4 * c.val] = sbox b[r.val + 4 * c.val] := by
  simp [subBytes]

theorem row_of_index (r c : Fin 4) : (r.val + 4 * c.val) % 4 = r.val := by omega

theorem column_of_index (r c : Fin 4) : (r.val + 4 * c.val) / 4 = c.val := by omega

theorem shiftRows_getElem (b : Block) (r c : Fin 4) :
    (shiftRows b)[r.val + 4 * c.val] = b[r.val + 4 * ((c.val + r.val) % 4)] := by
  simp only [shiftRows, Vector.getElem_ofFn, row_of_index, column_of_index]

theorem mixColumns_getElem (b : Block) (r c : Fin 4) :
    (mixColumns b)[r.val + 4 * c.val] =
      mixRow b[4 * c.val] b[1 + 4 * c.val] b[2 + 4 * c.val] b[3 + 4 * c.val] r.val := by
  simp only [mixColumns, Vector.getElem_ofFn, row_of_index, column_of_index, Nat.add_comm]

theorem addRoundKey_getElem (ks : KeySchedule) (round : Fin 11) (b : Block) (r c : Fin 4) :
    (addRoundKey ks round b)[r.val + 4 * c.val] =
      b[r.val + 4 * c.val] ^^^ byteOfWord ks[4 * round.val + c.val] r.val := by
  simp only [addRoundKey, Vector.getElem_ofFn, row_of_index, column_of_index, Fin.getElem_fin]

/-! ### The rounds in order (R92) -/

/-- A fold is the last of any chain of values each of which comes from the one before it. -/
theorem foldl_ofFn_eq_last {α β : Type} {f : β → α → β} {n : Nat} (g : Fin n → α) (st : Fin (n + 1) → β)
    (h : ∀ r : Fin n, st r.succ = f (st r.castSucc) (g r)) : (List.ofFn g).foldl f (st 0) = st (Fin.last n) := by
  induction n with
  | zero => rfl
  | succ n ih =>
    rw [List.ofFn_succ, List.foldl_cons, ← Fin.castSucc_zero, ← h 0]
    exact ih (fun r => g r.succ) (fun r => st r.succ) fun r => h r.succ

theorem aesEncrypt_eq_of_rounds {ks : KeySchedule} {input : Block} {st : Fin 10 → Block}
    (h0 : st 0 = addRoundKey ks 0 input) (h : ∀ r : Fin 9, st r.succ = middleRound ks (st r.castSucc) r.succ.castSucc) :
    aesEncrypt ks input = lastRound ks (st 9) := by
  rw [aesEncrypt, ← h0]
  exact congrArg (lastRound ks) (foldl_ofFn_eq_last (fun r : Fin 9 => r.succ.castSucc) st h)

/-! ### No step maps two blocks to one (R99) -/

theorem subBytes_injective : Function.Injective subBytes := fun _ _ h =>
  (Vector.map_inj_right fun _ _ e => sbox_injective e).mp h

/-- Row r, column c stands in column c - r after the shift. -/
theorem shiftRows_injective : Function.Injective shiftRows := by
  intro a b h
  apply block_ext
  intro r c
  have hrow (x : Block) : (shiftRows x)[r.val + 4 * (c - r).val] = x[r.val + 4 * c.val] := by
    have hc : ((c - r).val + r.val) % 4 = c.val := by omega
    simp only [shiftRows_getElem, hc]
  rw [← hrow, ← hrow, h]

/-- Column `c` of a block (R93). -/
def column (b : Block) (c : Fin 4) : Fin 4 → Byte := fun r => b[r.val + 4 * c.val]

/-- Every row of the matrix of R96 is the row above it rotated: 2 on the diagonal, 3 behind it, 1 elsewhere. -/
def mixColumn (s : Fin 4 → Byte) (r : Fin 4) : Byte :=
  xtime (s r ^^^ s (r + 1)) ^^^ s (r + 1) ^^^ s (r + 2) ^^^ s (r + 3)

theorem mixRow_eq_mixColumn (s : Fin 4 → Byte) (r : Fin 4) :
    mixRow (s 0) (s 1) (s 2) (s 3) r.val = mixColumn s r := by
  generalize h0 : s 0 = a0, h1 : s 1 = a1, h2 : s 2 = a2, h3 : s 3 = a3
  fin_cases r <;> simp [mixRow, mixColumn, gmul2, gmul3, xtime_xor, h0, h1, h2, h3] <;> ac_rfl

theorem column_mixColumns (b : Block) (c : Fin 4) : column (mixColumns b) c = mixColumn (column b c) := by
  funext r
  rw [← mixRow_eq_mixColumn, column, mixColumns_getElem]
  simp [column]

/-- Twice the matrix is (5 0 4 0), rotated from row to row. -/
theorem mixColumn_mixColumn (s : Fin 4 → Byte) (r : Fin 4) :
    mixColumn (mixColumn s) r = s r ^^^ xtime (xtime (s r ^^^ s (r + 2))) := by
  simp only [mixColumn, add_assoc, Fin.reduceAdd, add_zero, xtime_xor]
  generalize s r = a0, s (r + 1) = a1, s (r + 2) = a2, s (r + 3) = a3
  simp [BitVec.xor_assoc, BitVec.xor_comm, xor_left_comm]

/-- Twice the matrix adds one and the same byte to rows r and r + 2, so four times is the identity. -/
theorem mixColumn_injective : Function.Injective mixColumn := by
  have h4 : Function.LeftInverse (fun s => mixColumn (mixColumn (mixColumn s))) mixColumn := by
    intro s
    funext r
    have hsum : mixColumn (mixColumn s) r ^^^ mixColumn (mixColumn s) (r + 2) = s r ^^^ s (r + 2) := by
      simp only [mixColumn_mixColumn, add_assoc, Fin.reduceAdd, add_zero, xtime_xor]
      simp [BitVec.xor_assoc, BitVec.xor_comm]
    change mixColumn (mixColumn (mixColumn (mixColumn s))) r = s r
    rw [mixColumn_mixColumn, hsum, mixColumn_mixColumn, BitVec.xor_assoc, BitVec.xor_self, BitVec.xor_zero]
  exact h4.injective

theorem mixColumns_injective : Function.Injective mixColumns := by
  intro a b h
  have hcolumn (c : Fin 4) : column a c = column b c :=
    mixColumn_injective (by rw [← column_mixColumns, ← column_mixColumns, h])
  exact block_ext fun r c => congrFun (hcolumn c) r

theorem addRoundKey_injective (ks : KeySchedule) (round : Fin 11) : Function.Injective (addRoundKey ks round) := by
  intro a b h
  apply block_ext
  intro r c
  rw [← BitVec.xor_left_inj, ← addRoundKey_getElem ks round a, ← addRoundKey_getElem ks round b, h]

theorem middleRound_injective (ks : KeySchedule) (round : Fin 11) : Function.Injective (middleRound ks · round) :=
  (addRoundKey_injective ks round).comp (mixColumns_injective.comp (shiftRows_injective.comp subBytes_injective))

theorem lastRound_injective (ks : KeySchedule) : Function.Injective (lastRound ks) :=
  (addRoundKey_injective ks 10).comp (shiftRows_injective.comp subBytes_injective)

theorem foldl_injective {α β : Type} {f : β → α → β} (hf : ∀ x, Function.Injective (f · x)) (l : List α) :
    Function.Injective (l.foldl f) := by
  induction l with
  | nil => exact Function.injective_id
  | cons x l ih => exact ih.comp (hf x)

theorem aesEncrypt_injective (ks : KeySchedule) : Function.Injective (aesEncrypt ks) :=
  fun _ _ h => addRoundKey_injective ks 0 (foldl_injective (middleRound_injective ks) _ (lastRound_injective ks h))

theorem finite_block : Finite Block := by
  have hbyte : Finite Byte := Finite.of_injective BitVec.toFin fun _ _ => BitVec.eq_of_toFin_eq
  exact Finite.of_injective (fun (b : Block) (i : Fin 16) => b[i]) fun _ _ h =>
    Vector.ext fun i hi => congrFun h ⟨i, hi⟩

end Sys2Proof.Machine
end

section
/-! SUPPORT. The statements about the block cipher, settled. -/

namespace Sys2Proof.CipherProofs

open Sys2Proof.Machine

/-- Settles O23: no step maps two blocks to one, and there are finitely many blocks. -/
theorem aesEncryptIsBijective : Obligations.AesEncryptIsBijective := fun ks =>
  haveI := finite_block
  (aesEncrypt_injective ks).bijective_of_finite

/-- Settles O26: the inverse of a byte is read off its table entry. -/
theorem roundStepsByRowAndColumn : Obligations.RoundStepsByRowAndColumn :=
  ⟨fun _ _ _ h0 h => aesEncrypt_eq_of_rounds h0 h,
    fun ks round b r c => ⟨subBytes_getElem b r c, shiftRows_getElem b r c, addRoundKey_getElem ks round b r c⟩,
    rfl,
    fun x hx => ⟨invAffine (sbox x), gmul_invAffine_sbox x hx, (affine_invAffine (sbox x)).symm⟩⟩

/-- Settles O27: to multiply by 2 is xtime, by 3 xtime plus the byte itself; and the product is linear in its second factor. -/
theorem mixColumnsIsAMatrixProduct : Obligations.MixColumnsIsAMatrixProduct := by
  refine ⟨fun b c => ?_, fun a b c => ?_, fun _ => rfl⟩
  · simp only [gmul_one, gmul_two, gmul_three]
    exact ⟨by simpa [mixRow] using mixColumns_getElem b 0 c, mixColumns_getElem b 1 c, mixColumns_getElem b 2 c,
      mixColumns_getElem b 3 c⟩
  · have hlinear := xtimeLinear_gmul_right a
    exact ⟨gmul_one a, hlinear.map_xor b c, hlinear.map_xtime b⟩

/-- Settles O12, by whether a key is loaded. -/
theorem encryptBlockResult : Obligations.EncryptBlockResult := by
  intro s len
  change Host.Outcome.next (s.withKey fun t => t.setDout (aesEncrypt t.ks t.din)) = _
  rcases s.withKey_cases fun t => t.setDout (aesEncrypt t.ks t.din) with ⟨hk, e⟩ | ⟨hk, e⟩
  · rw [e, if_pos hk]; rfl
  · rw [e, if_neg (by simp [hk])]; rfl

end Sys2Proof.CipherProofs
end

section
/-! SUPPORT. What the proofs about addresses cite: the pseudonyms written out as encryptions (R106, R107, R120, R121), a splice byte
by byte, which bytes the parse and a pseudonym depend on, and the loop of R128 read field by field. -/

namespace Sys2Proof.Machine

/-! ### The meanings of ANON_V4 and ANON_V6 (R106 to R109) -/

/-- ANON_V6 and ENCRYPT_BLOCK have one meaning (R107, R109). -/
theorem exec_anonV6_eq_encryptBlock (len : BitVec 16) (s : State) :
    exec (.anonV6 len) s = exec (.encryptBlock len) s := rfl

theorem exec_anonV4 (len : BitVec 16) (s : State) :
    exec (.anonV4 len) s = .next (s.withKey fun t => t.setDoutV4 (anonV4 t.ks t.dinV4)) := rfl

theorem State.getElem_dinV4 (s : State) (j : Fin 4) : s.dinV4[j] = s.din[j.val] := by fin_cases j <;> rfl

/-- The address operand of ANON_V4 four times over. -/
theorem repeatV4_dinV4 (s : State) : repeatV4 s.dinV4 = Vector.ofFn fun j : Fin 16 => s.din[j.val % 4] :=
  congrArg Vector.ofFn (funext fun j => s.getElem_dinV4 ⟨j.val % 4, by omega⟩)

theorem getElem_anonV4 (ks : KeySchedule) (a : V4Bytes) {j : Nat} (h : j < 4) :
    (anonV4 ks a)[j] = (aesEncrypt ks (repeatV4 a))[j] := by
  have hfirst (out : Block) : (#v[out[0], out[1], out[2], out[3]] : V4Bytes)[j] = out[j] := by
    interval_cases j <;> rfl
  exact hfirst _

theorem State.getElem_dout_setDoutV4 (s : State) (a : V4Bytes) (i : Fin 16) :
    (s.setDoutV4 a).dout[i] = if h : i.val < 4 then a[i.val] else 0 := by
  fin_cases i <;> rfl

/-- Byte by byte, what ANON_V4 leaves in DOUT: the first four bytes of the encryption, then zeros (R108). -/
theorem State.getElem_dout_setDoutV4_anonV4 (s : State) (ks : KeySchedule) (a : V4Bytes) (i : Fin 16) :
    (s.setDoutV4 (anonV4 ks a)).dout[i] = if i.val < 4 then (aesEncrypt ks (repeatV4 a))[i] else 0 := by
  rw [State.getElem_dout_setDoutV4]
  split
  · next h => exact getElem_anonV4 ks a h
  · rfl

/-! ### The pseudonym of an address field (R120, R121, R126) -/

theorem rewrittenAddress_v4 (ks : KeySchedule) (rd : Nat → Byte) (start : Nat) {nb : Nat} (h : nb ≤ 4) :
    rewrittenAddress ks rd .v4 start nb =
      (aesEncrypt ks (Vector.ofFn fun i : Fin 16 => if i.val % 4 < nb then rd (start + i.val % 4) else 0)).toList.take nb := by
  simp only [rewrittenAddress, Family.anonymise, anonV4_toList, repeatV4, Vector.getElem_ofFn, paddedField_getD,
    List.take_take, Nat.min_eq_left h]

theorem rewrittenAddress_v6 (ks : KeySchedule) (rd : Nat → Byte) (start nb : Nat) :
    rewrittenAddress ks rd .v6 start nb =
      (aesEncrypt ks (Vector.ofFn fun i : Fin 16 => if i.val < nb then rd (start + i.val) else 0)).toList.take nb := by
  simp only [rewrittenAddress, Family.anonymise, anonV6, paddedField_getD]

/-- A pseudonym depends on the bytes of its field alone. -/
theorem rewrittenAddress_congr (ks : KeySchedule) {rd rd' : Nat → Byte} (fam : Family) {start : Nat} (nb : Nat)
    (h : ∀ i, start ≤ i → rd i = rd' i) : rewrittenAddress ks rd fam start nb = rewrittenAddress ks rd' fam start nb := by
  have hslice : slice rd start nb = slice rd' start nb := List.map_congr_left fun k _ => h _ (Nat.le_add_right start k)
  rw [rewrittenAddress, hslice, rewrittenAddress]

/-! ### A splice (R121, R130) -/

theorem readList_spliceAt {b : List Byte} {start : Nat} (h : start ≤ b.length) (r : List Byte) (i : Nat) :
    readList (spliceAt b start r) i =
      if start ≤ i ∧ i < start + r.length then readList r (i - start) else readList b i := by
  have hfront : (b.take start).length = start := List.length_take_of_le h
  simp only [readList, spliceAt, List.getD_eq_getElem?_getD, List.append_assoc]
  rcases Nat.lt_or_ge i start with hlt | hge
  · rw [List.getElem?_append_left (by omega), List.getElem?_take_of_lt hlt, if_neg (by omega)]
  · rw [List.getElem?_append_right (by omega), hfront]
    rcases Nat.lt_or_ge (i - start) r.length with hin | hout
    · rw [List.getElem?_append_left hin, if_pos (by omega)]
    · rw [List.getElem?_append_right hout, List.getElem?_drop, if_neg (by omega)]
      congr 2; omega

/-! ### What the parse depends on (R117 to R120, R131) -/

/-- The parse of an option depends on its seven bytes before the scope-prefix alone. -/
theorem parseOption_congr (policy : EcsUnknownFamily) {rd rd' : Nat → Byte} (len : Nat) {p : Nat}
    (h : ∀ i, p ≤ i → i < p + 7 → rd i = rd' i) : parseOption policy rd len p = parseOption policy rd' len p := by
  have hcode : be16 rd p = be16 rd' p := by rw [be16, be16, h p, h (p + 1)] <;> omega
  have holen : be16 rd (p + 2) = be16 rd' (p + 2) := by rw [be16, be16, h (p + 2), h (p + 2 + 1)] <;> omega
  have hfamily : be16 rd (p + 4) = be16 rd' (p + 4) := by rw [be16, be16, h (p + 4), h (p + 4 + 1)] <;> omega
  have hprefix : rd (p + 6) = rd' (p + 6) := h _ (by omega) (by omega)
  simp only [parseOption, parseEcs, hcode, holen, hfamily, hprefix]

end Sys2Proof.Machine

namespace Sys2Proof.Safety

open Sys2Proof.Machine

/-! ### The fields of a parse (R119, R121) -/

/-- The fields met from a cursor on depend on the bytes from there on alone. -/
theorem ecsFieldsFrom_congr (policy : EcsUnknownFamily) {rd rd' : Nat → Byte} (len fuel : Nat) {p : Nat}
    (h : ∀ i, p ≤ i → rd i = rd' i) : ecsFieldsFrom policy rd len fuel p = ecsFieldsFrom policy rd' len fuel p := by
  induction fuel generalizing p with
  | zero => rfl
  | succ fuel ih =>
    have hrest (olen : Nat) := ih (p := p + 4 + olen) fun i hi => h i (by omega)
    simp only [ecsFieldsFrom, parseOption_congr policy len fun i hi _ => h i hi, hrest]

/-- A splice before the cursor changes none of the fields met from there on. -/
theorem ecsFieldsFrom_spliceAt (policy : EcsUnknownFamily) {b r : List Byte} {start p : Nat}
    (hb : start + r.length ≤ b.length) (hp : start + r.length ≤ p) (fuel : Nat) :
    ecsFieldsFrom policy (readList (spliceAt b start r)) (spliceAt b start r).length fuel p =
      ecsFieldsFrom policy (readList b) b.length fuel p := by
  rw [spliceAt_length hb]
  exact ecsFieldsFrom_congr policy _ _ fun i hi => (readList_spliceAt (by omega) r i).trans (if_neg (by omega))

/-- The fields met from a cursor on lie behind it. -/
theorem le_start_of_mem_ecsFieldsFrom {policy : EcsUnknownFamily} {rd : Nat → Byte} {len fuel p : Nat}
    {field : Nat × Nat × Family} (h : field ∈ ecsFieldsFrom policy rd len fuel p) : p ≤ field.1 := by
  induction fuel generalizing p with
  | zero => cases h
  | succ fuel ih =>
    rw [ecsFieldsFrom] at h
    split at h
    · cases h
    split at h
    · cases h
    · have := ih h; omega
    · rcases List.mem_cons.mp h with rfl | hrest
      · exact Nat.le_add_right p 8
      · have := ih hrest; omega

/-! ### The bytes of a fieldwise rewrite (R130, R132) -/

/-- Before all its fields a fieldwise rewrite changes nothing. -/
theorem fieldwiseByte_before (ks : KeySchedule) (b : List Byte) {fields : List (Nat × Nat × Family)} {p i : Nat}
    (hfields : ∀ field ∈ fields, p ≤ field.1) (hi : i < p) : fieldwiseByte ks b fields i = readList b i := by
  induction fields with
  | nil => rfl
  | cons field fields ih =>
    obtain ⟨hfirst, hrest⟩ := List.forall_mem_cons.mp hfields
    rw [fieldwiseByte, if_neg (by omega), ih hrest]

/-- A byte of a fieldwise rewrite depends on the bytes of the fields and on the byte in its own place alone. -/
theorem fieldwiseByte_congr (ks : KeySchedule) {b c : List Byte} {fields : List (Nat × Nat × Family)} {p i : Nat}
    (hfields : ∀ field ∈ fields, p ≤ field.1) (h : ∀ j, p ≤ j → readList b j = readList c j)
    (hi : readList b i = readList c i) : fieldwiseByte ks b fields i = fieldwiseByte ks c fields i := by
  induction fields with
  | nil => exact hi
  | cons field fields ih =>
    obtain ⟨hfirst, hrest⟩ := List.forall_mem_cons.mp hfields
    obtain ⟨start, nb, fam⟩ := field
    rw [fieldwiseByte, fieldwiseByte, ih hrest, rewrittenAddress_congr ks fam nb fun j hj => h j (le_trans hfirst hj)]

/-- A field written in place and the fields behind it rewritten after that: the same as all of them rewritten from the original
bytes. -/
theorem fieldwiseByte_spliceAt (ks : KeySchedule) {b : List Byte} {fields : List (Nat × Nat × Family)} {start nb p : Nat}
    {fam : Family} (hb : start ≤ b.length) (hnb : nb ≤ fam.width) (hp : start + nb ≤ p)
    (hfields : ∀ field ∈ fields, p ≤ field.1) (i : Nat) :
    fieldwiseByte ks (spliceAt b start (rewrittenAddress ks (readList b) fam start nb)) fields i =
      fieldwiseByte ks b ((start, nb, fam) :: fields) i := by
  have hread := readList_spliceAt hb (rewrittenAddress ks (readList b) fam start nb)
  rw [rewrittenAddress_length ks _ _ hnb] at hread
  rw [fieldwiseByte]
  split
  · next hin => rw [fieldwiseByte_before ks _ hfields (by omega), hread, if_pos hin]
  · next hout =>
    exact fieldwiseByte_congr ks hfields (fun j hj => (hread j).trans (if_neg (by omega))) ((hread i).trans (if_neg hout))

/-- What the loop of R128 makes of the bytes it stands before: every field that a parse of THESE bytes meets is replaced and
counted, though the loop parses what it has already rewritten, since it never looks behind its cursor. -/
theorem optLoop_fieldwise (policy : EcsUnknownFamily) (ks : KeySchedule) (fuel : Nat) (b : List Byte) (p n : Nat) :
    (optLoop policy ks fuel b p n).count = n + (ecsFieldsFrom policy (readList b) b.length fuel p).length ∧
      ∀ i, readList (optLoop policy ks fuel b p n).bytes i =
        fieldwiseByte ks b (ecsFieldsFrom policy (readList b) b.length fuel p) i := by
  induction fuel generalizing b p n with
  | zero => exact ⟨rfl, fun _ => rfl⟩
  | succ fuel ih =>
    rw [optLoop, ecsFieldsFrom]
    by_cases hp : p = b.length
    · rw [if_pos hp, if_pos hp]
      exact ⟨rfl, fun _ => rfl⟩
    rw [if_neg hp, if_neg hp]
    cases ho : parseOption policy (readList b) b.length p with
    | malformed => exact ⟨rfl, fun _ => rfl⟩
    | passThrough olen => exact ih b (p + 4 + olen) n
    | ecs fam nb olen =>
      obtain ⟨hend, hfield, hwidth, -⟩ := parseOption_ecs ho
      have hlen := rewrittenAddress_length ks (readList b) (p + 8) hwidth
      obtain ⟨hcount, hbytes⟩ :=
        ih (spliceAt b (p + 8) (rewrittenAddress ks (readList b) fam (p + 8) nb)) (p + 4 + olen) (n + 1)
      rw [ecsFieldsFrom_spliceAt policy (by omega) (by omega)] at hcount hbytes
      refine ⟨by rw [hcount, List.length_cons]; omega, fun i => (hbytes i).trans ?_⟩
      exact fieldwiseByte_spliceAt ks (by omega) hwidth (by omega) (fun _ hf => le_start_of_mem_ecsFieldsFrom hf) i

end Sys2Proof.Safety
end

section
/-! SUPPORT. The statements about addresses, settled. -/

namespace Sys2Proof.AddressProofs

open Sys2Proof.Machine Sys2Proof.Safety

/-- Settles O13, by whether a key is loaded. -/
theorem anonV4Result : Obligations.AnonV4Result := by
  intro s len
  rw [exec_anonV4]
  refine ⟨fun hk => ⟨_, rfl, ?_⟩, fun hk => ?_⟩
  · rw [State.withKey_of_key hk, ← repeatV4_dinV4]
    exact ⟨rfl, s.getElem_dout_setDoutV4_anonV4 s.ks s.dinV4⟩
  · rw [State.withKey_of_no_key hk]; rfl

/-- Settles O14: ANON_V6 does what ENCRYPT_BLOCK does. -/
theorem anonV6Result : Obligations.AnonV6Result := by
  intro s len
  rw [exec_anonV6_eq_encryptBlock, CipherProofs.encryptBlockResult s len]
  exact ⟨fun hk => if_pos hk, fun hk => if_neg (by simp [hk])⟩

/-- Settles O24: the bijection is the encryption under KS (O23). -/
theorem anonV6PermutesAddresses : Obligations.AnonV6PermutesAddresses := fun s len hk =>
  ⟨aesEncrypt s.ks, CipherProofs.aesEncryptIsBijective s.ks, fun a =>
    ⟨_, (anonV6Result { s with din := a } len).1 hk, rfl⟩⟩

/-- Settles O30. -/
theorem rewriteIsFieldwise : Obligations.RewriteIsFieldwise := by
  intro policy ks b
  obtain ⟨hcount, hbytes⟩ := optLoop_fieldwise policy ks (b.length / 4 + 1) b 0 0
  exact ⟨hcount.trans (Nat.zero_add _), fun i _ => hbytes i, fun start _ h => rewrittenAddress_v4 ks _ start h,
    fun start nb _ => rewrittenAddress_v6 ks _ start nb⟩

end Sys2Proof.AddressProofs
end

section
/-! SUPPORT. What the proofs about OPT RDATA cite: the parse of an option in one equation and where it reads (R117 to R124), the
runs of the loop of R128 without its bound (R127), one-option RDATA (R118 to R126), the rewrite in BUF itself (R132), and the
headers of the fields (R119). -/

namespace Sys2Proof.Machine

/-! ### The parse of an option (R117 to R124) -/

theorem ceil8_eq (n : Nat) : ceil8 n = (n + 7) / 8 := Nat.shiftRight_eq_div_pow _ _

/-- The numbers of the families (R120, R124). -/
theorem familyOf_eq (f : BitVec 16) :
    familyOf f = if f.toNat = 1 then some .v4 else if f.toNat = 2 then some .v6 else none := by
  simp only [familyOf, ← BitVec.toNat_inj]
  rfl

theorem familyOf_eq_v4_iff {f : BitVec 16} : familyOf f = some .v4 ↔ f.toNat = 1 := by
  rw [familyOf_eq]
  split_ifs <;> simp_all

theorem familyOf_eq_v6_iff {f : BitVec 16} : familyOf f = some .v6 ↔ f.toNat = 2 := by
  rw [familyOf_eq]
  split_ifs <;> simp_all

theorem familyOf_eq_none_iff {f : BitVec 16} : familyOf f = none ↔ f.toNat ≠ 1 ∧ f.toNat ≠ 2 := by
  rw [familyOf_eq]
  split_ifs <;> simp_all

theorem exists_family_iff {P : Family → Prop} : (∃ fam, P fam) ↔ P .v4 ∨ P .v6 := by
  constructor
  · rintro ⟨_ | _, h⟩
    · exact .inl h
    · exact .inr h
  · rintro (h | h) <;> exact ⟨_, h⟩

/-- The parse of an option: it must fit the RDATA, header and data, and then its code decides (R117 to R119, R122). -/
theorem parseOption_eq (policy : EcsUnknownFamily) (rd : Nat → Byte) (len p : Nat) :
    parseOption policy rd len p =
      if p + 4 + (be16 rd (p + 2)).toNat ≤ len then
        if (be16 rd p).toNat = 8 then parseEcs policy rd p (be16 rd (p + 2)).toNat
        else .passThrough (be16 rd (p + 2)).toNat
      else .malformed := by
  rw [parseOption]
  by_cases hheader : len - p < 4
  · rw [if_pos hheader, if_neg (by omega)]
  rw [if_neg hheader]
  by_cases hdata : (be16 rd (p + 2)).toNat > len - p - 4
  · exact (if_pos hdata).trans (if_neg (by omega)).symm
  · exact (if_neg hdata).trans (if_pos (by omega)).symm

theorem parseOption_eq_malformed_iff {policy : EcsUnknownFamily} {rd : Nat → Byte} {len p : Nat} :
    parseOption policy rd len p = .malformed ↔
      len < p + 4 + (be16 rd (p + 2)).toNat ∨
        (be16 rd p).toNat = 8 ∧ parseEcs policy rd p (be16 rd (p + 2)).toNat = .malformed := by
  rw [parseOption_eq]
  split_ifs with hfits hcode
  · simp [hcode, hfits]
  · simp [hcode, hfits]
  · simp [Nat.lt_of_not_le hfits]

/-- Checks (c) to (f) of R122, with (e) and (f) for the known families alone (assumption 8). -/
theorem parseEcs_eq_malformed_iff {policy : EcsUnknownFamily} {rd : Nat → Byte} {p olen : Nat} :
    parseEcs policy rd p olen = .malformed ↔
      olen < 4 ∨ (familyOf (be16 rd (p + 4)) = none ∧ policy = .stop) ∨
        ∃ fam, familyOf (be16 rd (p + 4)) = some fam ∧
          (fam.width < ceil8 (rd (p + 6)).toNat ∨ olen - 4 < ceil8 (rd (p + 6)).toNat) := by
  simp only [parseEcs]
  split
  · next h => simp [h]
  · next h =>
    split
    · next hf => simp [hf]
    · next hf => simp [hf, h]
    · next fam hf => split_ifs <;> simp_all

/-- A well-formed ECS option of a known family (R119, R120). -/
theorem parseEcs_of_family {policy : EcsUnknownFamily} {rd : Nat → Byte} {p olen : Nat} {fam : Family}
    (hf : familyOf (be16 rd (p + 4)) = some fam) (hw : ceil8 (rd (p + 6)).toNat ≤ fam.width)
    (hn : 4 + ceil8 (rd (p + 6)).toNat ≤ olen) :
    parseEcs policy rd p olen = .ecs fam (ceil8 (rd (p + 6)).toNat) olen := by
  simp only [parseEcs, hf, if_neg (show ¬ olen < 4 by omega), if_neg (Nat.not_lt.mpr hw),
    if_neg (show ¬ ceil8 (rd (p + 6)).toNat > olen - 4 by omega)]

/-- An ECS option of an unknown family under STOP (R124). -/
theorem parseEcs_stop_of_unknown {rd : Nat → Byte} {p : Nat} (hf : familyOf (be16 rd (p + 4)) = none) (olen : Nat) :
    parseEcs .stop rd p olen = .malformed := by simp [parseEcs, hf]

/-- An ECS option of an unknown family under SKIP (R124). -/
theorem parseEcs_skip_of_unknown {rd : Nat → Byte} {p olen : Nat} (hf : familyOf (be16 rd (p + 4)) = none)
    (h4 : 4 ≤ olen) : parseEcs .skip rd p olen = .passThrough olen := by
  simp [parseEcs, hf, Nat.not_lt.mpr h4]

/-! ### Where the parse reads -/

theorem be16_congr {rd rd' : Nat → Byte} {i : Nat} (h0 : rd i = rd' i) (h1 : rd (i + 1) = rd' (i + 1)) :
    be16 rd i = be16 rd' i := by rw [be16, h0, h1, be16]

theorem parseEcs_congr (policy : EcsUnknownFamily) {rd rd' : Nat → Byte} {p olen : Nat}
    (h : ∀ i, p + 4 ≤ i → i < p + 4 + olen → rd i = rd' i) :
    parseEcs policy rd p olen = parseEcs policy rd' p olen := by
  by_cases h4 : olen < 4
  · simp [parseEcs, h4]
  · have hfamily : be16 rd (p + 4) = be16 rd' (p + 4) := be16_congr (h _ (by omega) (by omega)) (h _ (by omega) (by omega))
    have hprefix : rd (p + 6) = rd' (p + 6) := h _ (by omega) (by omega)
    simp only [parseEcs, hfamily, hprefix]

/-- The parse decides by bytes inside the RDATA alone. -/
theorem parseOption_congr_inside (policy : EcsUnknownFamily) {rd rd' : Nat → Byte} {len p : Nat}
    (h : ∀ i, p ≤ i → i < len → rd i = rd' i) : parseOption policy rd len p = parseOption policy rd' len p := by
  rw [parseOption_eq, parseOption_eq]
  by_cases hp : p + 4 ≤ len
  · rw [be16_congr (h p (by omega) (by omega)) (h _ (by omega) (by omega)),
      be16_congr (h (p + 2) (by omega) (by omega)) (h _ (by omega) (by omega))]
    split
    · next hfits => rw [parseEcs_congr policy fun i hlo hhi => h i (by omega) (by omega)]
    · rfl
  · rw [if_neg (by omega), if_neg (by omega)]

/-- An option that is not malformed parses alike in a longer RDATA. -/
theorem parseOption_extend {policy : EcsUnknownFamily} {rd : Nat → Byte} {len len' p : Nat} (hlen : len ≤ len')
    (h : parseOption policy rd len p ≠ .malformed) : parseOption policy rd len' p = parseOption policy rd len p := by
  have hfits : p + 4 + (be16 rd (p + 2)).toNat ≤ len := by
    by_contra hout
    exact h (parseOption_eq_malformed_iff.mpr (.inl (Nat.lt_of_not_le hout)))
  rw [parseOption_eq, parseOption_eq policy rd len, if_pos hfits, if_pos (hfits.trans hlen)]

/-- The parse looks at what stands from its cursor on, and not at where that is. -/
theorem parseOption_shift (policy : EcsUnknownFamily) (rd : Nat → Byte) (k len p : Nat) :
    parseOption policy rd (k + len) (k + p) = parseOption policy (fun i => rd (k + i)) len p := by
  simp only [parseOption, parseEcs, be16, Nat.add_assoc, Nat.add_sub_add_left]

/-! ### Lists of bytes -/

theorem readList_append_left {front : List Byte} {i : Nat} (h : i < front.length) (tail : List Byte) :
    readList (front ++ tail) i = readList front i := List.getD_append _ _ _ _ h

theorem readList_append_right (front tail : List Byte) (i : Nat) :
    readList (front ++ tail) (front.length + i) = readList tail i := by
  rw [readList, List.getD_append_right _ _ _ _ (Nat.le_add_right _ _), Nat.add_sub_cancel_left, readList]

theorem eq_of_readList {b c : List Byte} (hlen : b.length = c.length)
    (h : ∀ i, i < b.length → readList b i = readList c i) : b = c :=
  List.ext_getElem hlen fun i hb hc => by
    have hi := h i hb
    rwa [readList, readList, List.getD_eq_getElem _ _ hb, List.getD_eq_getElem _ _ hc] at hi

theorem spliceAt_append_left {front r : List Byte} {start : Nat} (h : start + r.length ≤ front.length) (tail : List Byte) :
    spliceAt (front ++ tail) start r = spliceAt front start r ++ tail := by
  simp only [spliceAt, List.take_append_of_le_length (show start ≤ front.length by omega), List.drop_append_of_le_length h,
    List.append_assoc]

theorem spliceAt_append_right (front tail r : List Byte) (start : Nat) :
    spliceAt (front ++ tail) (front.length + start) r = front ++ spliceAt tail start r := by
  simp only [spliceAt, List.take_length_add_append, Nat.add_assoc, List.drop_length_add_append, List.append_assoc]

/-- The bytes between two others are replaced by as many new ones. -/
theorem spliceAt_between {mid r : List Byte} (h : r.length = mid.length) (front tail : List Byte) :
    spliceAt (front ++ mid ++ tail) front.length r = front ++ r ++ tail := by
  rw [List.append_assoc]
  refine (spliceAt_append_right front (mid ++ tail) r 0).trans ?_
  simp [spliceAt, h]

/-! ### Pseudonyms (R121) -/

/-- A pseudonym depends on the bytes of its field alone, wherever it stands. -/
theorem rewrittenAddress_congr_field (ks : KeySchedule) {rd rd' : Nat → Byte} (fam : Family) {start start' nb : Nat}
    (h : ∀ k, k < nb → rd (start + k) = rd' (start' + k)) :
    rewrittenAddress ks rd fam start nb = rewrittenAddress ks rd' fam start' nb := by
  have hslice : slice rd start nb = slice rd' start' nb := List.map_congr_left fun k hk => h k (List.mem_range.mp hk)
  rw [rewrittenAddress, hslice, rewrittenAddress]

/-! ### The runs of the loop (R127, R128) -/

/-- The bytes after the ECS option at `p` was rewritten (R121, R130). -/
def rewriteOption (ks : KeySchedule) (b : List Byte) (p : Nat) (fam : Family) (nb : Nat) : List Byte :=
  spliceAt b (p + 8) (rewrittenAddress ks (readList b) fam (p + 8) nb)

/-- The loop of R128 as its rules, with no bound on header checks: from the bytes, a cursor and a count it ends in the result. -/
inductive LoopEnds (policy : EcsUnknownFamily) (ks : KeySchedule) : List Byte → Nat → Nat → RewriteResult → Prop
  | atEnd (b : List Byte) (n : Nat) : LoopEnds policy ks b b.length n ⟨b, b.length, false, n⟩
  | malformed {b : List Byte} {p : Nat} (n : Nat) (hp : p < b.length)
      (ho : parseOption policy (readList b) b.length p = .malformed) : LoopEnds policy ks b p n ⟨b, p, true, n⟩
  | passThrough {b : List Byte} {p n olen : Nat} {r : RewriteResult}
      (ho : parseOption policy (readList b) b.length p = .passThrough olen)
      (hrest : LoopEnds policy ks b (p + 4 + olen) n r) : LoopEnds policy ks b p n r
  | ecs {b : List Byte} {p n nb olen : Nat} {fam : Family} {r : RewriteResult}
      (ho : parseOption policy (readList b) b.length p = .ecs fam nb olen)
      (hrest : LoopEnds policy ks (rewriteOption ks b p fam nb) (p + 4 + olen) (n + 1) r) : LoopEnds policy ks b p n r

section
variable {policy : EcsUnknownFamily} {ks : KeySchedule}

theorem rewriteOption_length {b : List Byte} {p nb olen : Nat} {fam : Family}
    (ho : parseOption policy (readList b) b.length p = .ecs fam nb olen) :
    (rewriteOption ks b p fam nb).length = b.length := by
  obtain ⟨hend, hfield, hwidth, -⟩ := parseOption_ecs ho
  exact spliceAt_length (by rw [rewrittenAddress_length ks _ _ hwidth]; omega)

/-- Rewriting an ECS option changes nothing behind it. -/
theorem readList_rewriteOption_behind {b : List Byte} {p nb olen i : Nat} {fam : Family}
    (ho : parseOption policy (readList b) b.length p = .ecs fam nb olen) (hi : p + 4 + olen ≤ i) :
    readList (rewriteOption ks b p fam nb) i = readList b i := by
  obtain ⟨hend, hfield, hwidth, -⟩ := parseOption_ecs ho
  have hlen := rewrittenAddress_length ks (readList b) (p + 8) hwidth
  exact (readList_spliceAt (by omega) _ i).trans (if_neg (by omega))

/-- With a bound of one header check per 4 bytes left, and one more, the loop ends by one of its rules (R127). -/
theorem loopEnds_optLoop (fuel : Nat) {b : List Byte} {p : Nat} (n : Nat) (hp : p ≤ b.length)
    (hfuel : b.length < p + 4 * fuel) : LoopEnds policy ks b p n (optLoop policy ks fuel b p n) := by
  induction fuel generalizing b p n with
  | zero => omega
  | succ fuel ih =>
    rw [optLoop]
    split
    · next hend => subst hend; exact .atEnd b n
    · next hne =>
      cases ho : parseOption policy (readList b) b.length p with
      | malformed => exact .malformed n (by omega) ho
      | passThrough olen => exact .passThrough ho (ih n (parseOption_passThrough ho) (by omega))
      | ecs fam nb olen =>
        have hlen := rewriteOption_length (ks := ks) ho
        obtain ⟨hfits, -⟩ := parseOption_ecs ho
        exact .ecs ho (ih (n + 1) (by omega) (by omega))

/-- A run of the loop is what the loop computes, under any bound that is large enough. -/
theorem LoopEnds.optLoop_eq {b : List Byte} {p n fuel : Nat} {r : RewriteResult} (h : LoopEnds policy ks b p n r)
    (hfuel : b.length < p + 4 * fuel) : optLoop policy ks fuel b p n = r := by
  induction h generalizing fuel with
  | atEnd b n =>
    obtain ⟨fuel, rfl⟩ := Nat.exists_eq_add_one_of_ne_zero (show fuel ≠ 0 by omega)
    simp [optLoop]
  | malformed n hp ho =>
    obtain ⟨fuel, rfl⟩ := Nat.exists_eq_add_one_of_ne_zero (show fuel ≠ 0 by omega)
    simp [optLoop, ho, Nat.ne_of_lt hp]
  | passThrough ho _ ih =>
    have hfits := parseOption_passThrough ho
    obtain ⟨fuel, rfl⟩ := Nat.exists_eq_add_one_of_ne_zero (show fuel ≠ 0 by omega)
    simp only [optLoop, ho]
    rw [if_neg (by omega), ih (by omega)]
  | ecs ho _ ih =>
    have hlen := rewriteOption_length (ks := ks) ho
    obtain ⟨hfits, -⟩ := parseOption_ecs ho
    obtain ⟨fuel, rfl⟩ := Nat.exists_eq_add_one_of_ne_zero (show fuel ≠ 0 by omega)
    simp only [optLoop, ho]
    rw [if_neg (by omega)]
    exact ih (by omega)

theorem loopEnds_optRewrite (policy : EcsUnknownFamily) (ks : KeySchedule) (b : List Byte) :
    LoopEnds policy ks b 0 0 (optRewrite policy ks b) :=
  loopEnds_optLoop _ 0 (Nat.zero_le _) (by omega)

theorem LoopEnds.optRewrite_eq {b : List Byte} {r : RewriteResult} (h : LoopEnds policy ks b 0 0 r) :
    optRewrite policy ks b = r := h.optLoop_eq (by omega)

/-! ### Where a run stops (R123) -/

theorem LoopEnds.le_stop {b : List Byte} {p n : Nat} {r : RewriteResult} (h : LoopEnds policy ks b p n r) : p ≤ r.stop := by
  induction h with
  | atEnd | malformed => exact Nat.le_refl _
  | passThrough _ _ ih | ecs _ _ ih => omega

theorem LoopEnds.readList_from_stop {b : List Byte} {p n i : Nat} {r : RewriteResult} (h : LoopEnds policy ks b p n r)
    (hi : r.stop ≤ i) : readList r.bytes i = readList b i := by
  induction h with
  | atEnd | malformed => rfl
  | passThrough _ _ ih => exact ih hi
  | ecs ho hrest ih => exact (ih hi).trans (readList_rewriteOption_behind ho (hrest.le_stop.trans hi))

theorem LoopEnds.malformed_eq_false_iff {b : List Byte} {p n : Nat} {r : RewriteResult} (h : LoopEnds policy ks b p n r) :
    r.malformed = false ↔ r.stop = b.length := by
  induction h with
  | atEnd => simp
  | malformed n hp _ => simp [Nat.ne_of_lt hp]
  | passThrough _ _ ih => exact ih
  | ecs ho _ ih => rwa [rewriteOption_length ho] at ih

theorem LoopEnds.parseOption_stop {b : List Byte} {p n : Nat} {r : RewriteResult} (h : LoopEnds policy ks b p n r)
    (hm : r.malformed = true) : parseOption policy (readList b) b.length r.stop = .malformed := by
  induction h with
  | atEnd => cases hm
  | malformed n _ ho => exact ho
  | passThrough _ _ ih => exact ih hm
  | ecs ho hrest ih =>
    have hstop := ih hm
    rw [rewriteOption_length ho] at hstop
    rwa [parseOption_congr policy _ fun i hi _ => readList_rewriteOption_behind ho (hrest.le_stop.trans hi)] at hstop

/-! ### One RDATA behind another (R127, R128) -/

/-- The result of a rewrite, read as the result for the same bytes behind `front`, in which `k` options were rewritten. -/
def RewriteResult.behind (r : RewriteResult) (front : List Byte) (k : Nat) : RewriteResult :=
  ⟨front ++ r.bytes, front.length + r.stop, r.malformed, k + r.count⟩

theorem parseOption_append_left {front : List Byte} {p : Nat}
    (h : parseOption policy (readList front) front.length p ≠ .malformed) (tail : List Byte) :
    parseOption policy (readList (front ++ tail)) (front ++ tail).length p =
      parseOption policy (readList front) front.length p := by
  have hread : parseOption policy (readList (front ++ tail)) front.length p =
      parseOption policy (readList front) front.length p :=
    parseOption_congr_inside policy fun i _ hi => readList_append_left hi tail
  rw [← hread] at h ⊢
  exact parseOption_extend (by simp) h

theorem parseOption_append_right (policy : EcsUnknownFamily) (front tail : List Byte) (p : Nat) :
    parseOption policy (readList (front ++ tail)) (front ++ tail).length (front.length + p) =
      parseOption policy (readList tail) tail.length p := by
  rw [List.length_append, parseOption_shift]
  simp only [readList_append_right]

theorem rewriteOption_append_left {front : List Byte} {p nb olen : Nat} {fam : Family}
    (ho : parseOption policy (readList front) front.length p = .ecs fam nb olen) (tail : List Byte) :
    rewriteOption ks (front ++ tail) p fam nb = rewriteOption ks front p fam nb ++ tail := by
  obtain ⟨hend, hfield, hwidth, -⟩ := parseOption_ecs ho
  rw [rewriteOption, rewrittenAddress_congr_field ks fam fun k hk => readList_append_left (by omega) tail]
  exact spliceAt_append_left (by rw [rewrittenAddress_length ks _ _ hwidth]; omega) tail

theorem rewriteOption_append_right (ks : KeySchedule) (front tail : List Byte) (p : Nat) (fam : Family) (nb : Nat) :
    rewriteOption ks (front ++ tail) (front.length + p) fam nb = front ++ rewriteOption ks tail p fam nb := by
  rw [rewriteOption, rewrittenAddress_congr_field (start' := p + 8) (rd' := readList tail) ks fam fun k _ => by
    rw [Nat.add_assoc, Nat.add_assoc, readList_append_right, Nat.add_assoc]]
  exact spliceAt_append_right front tail _ (p + 8)

/-- A run goes the same way behind any other bytes. -/
theorem LoopEnds.behind {tail : List Byte} {p n : Nat} {r : RewriteResult} (h : LoopEnds policy ks tail p n r)
    (front : List Byte) (k : Nat) : LoopEnds policy ks (front ++ tail) (front.length + p) (k + n) (r.behind front k) := by
  induction h with
  | atEnd b n => rw [← List.length_append]; simpa [RewriteResult.behind] using LoopEnds.atEnd (front ++ b) (k + n)
  | malformed n hp ho =>
    exact .malformed (k + n) (by simpa using hp) ((parseOption_append_right policy front _ _).trans ho)
  | passThrough ho _ ih =>
    rw [← Nat.add_assoc, ← Nat.add_assoc] at ih
    exact .passThrough ((parseOption_append_right policy front _ _).trans ho) ih
  | ecs ho _ ih =>
    rw [← Nat.add_assoc, ← Nat.add_assoc, ← Nat.add_assoc, ← rewriteOption_append_right] at ih
    exact .ecs ((parseOption_append_right policy front _ _).trans ho) ih

/-- A run that reaches the end of its bytes goes on in those behind them. -/
theorem LoopEnds.append {front tail : List Byte} {p n : Nat} {f t : RewriteResult} (hf : LoopEnds policy ks front p n f)
    (hm : f.malformed = false) (ht : LoopEnds policy ks tail 0 0 t) :
    LoopEnds policy ks (front ++ tail) p n (t.behind f.bytes f.count) := by
  induction hf with
  | atEnd b n => exact ht.behind b n
  | malformed => cases hm
  | passThrough ho _ ih => exact .passThrough ((parseOption_append_left (by simp [ho]) tail).trans ho) (ih hm)
  | ecs ho _ ih =>
    refine .ecs ((parseOption_append_left (by simp [ho]) tail).trans ho) ?_
    rw [rewriteOption_append_left ho]
    exact ih hm

/-! ### RDATA that is one option (R118 to R124) -/

theorem optRewrite_of_malformed {b : List Byte} (hb : 0 < b.length)
    (ho : parseOption policy (readList b) b.length 0 = .malformed) : optRewrite policy ks b = ⟨b, 0, true, 0⟩ :=
  (LoopEnds.malformed 0 hb ho).optRewrite_eq

theorem optRewrite_of_passThrough {b : List Byte} {olen : Nat}
    (ho : parseOption policy (readList b) b.length 0 = .passThrough olen) (hb : b.length = 4 + olen) :
    optRewrite policy ks b = ⟨b, 4 + olen, false, 0⟩ := by
  have hend := LoopEnds.atEnd (policy := policy) (ks := ks) b 0
  rw [hb] at hend
  exact (LoopEnds.passThrough ho (by rwa [Nat.zero_add])).optRewrite_eq

theorem optRewrite_of_ecs {b : List Byte} {fam : Family} {nb olen : Nat}
    (ho : parseOption policy (readList b) b.length 0 = .ecs fam nb olen) (hb : b.length = 4 + olen) :
    optRewrite policy ks b = ⟨rewriteOption ks b 0 fam nb, 4 + olen, false, 1⟩ := by
  have hend := LoopEnds.atEnd (policy := policy) (ks := ks) (rewriteOption ks b 0 fam nb) 1
  rw [rewriteOption_length ho, hb] at hend
  exact (LoopEnds.ecs ho (by rwa [Nat.zero_add])).optRewrite_eq

end

/-- The length field of an option, high byte first (R117). -/
theorem toNat_lengthField {n : Nat} (h : n < 65536) :
    (BitVec.ofNat 8 (n / 256) ++ BitVec.ofNat 8 n : BitVec 16).toNat = n := by
  rw [BitVec.toNat_append, BitVec.toNat_ofNat, BitVec.toNat_ofNat, Nat.shiftLeft_eq, Nat.mul_comm,
    ← Nat.two_pow_add_eq_or_of_lt (Nat.mod_lt _ (by norm_num))]
  omega

/-- The eight bytes before the address of an ECS option (R117, R119). -/
def ecsHeader (olen : Nat) (f0 f1 sp scope : Byte) : List Byte :=
  [0, 8, BitVec.ofNat 8 (olen / 256), BitVec.ofNat 8 olen, f0, f1, sp, scope]

/-- RDATA that starts with an ECS header and holds the option's data is parsed as an ECS option. -/
theorem parseOption_ecsHeader (policy : EcsUnknownFamily) {olen : Nat} (f0 f1 sp scope : Byte) {rest : List Byte}
    (holen : olen < 65536) (hrest : olen ≤ 4 + rest.length) :
    let b := ecsHeader olen f0 f1 sp scope ++ rest
    parseOption policy (readList b) b.length 0 = parseEcs policy (readList b) 0 olen := by
  intro b
  have hlen : (be16 (readList b) (0 + 2)).toNat = olen := toNat_lengthField holen
  have hcode : (be16 (readList b) 0).toNat = 8 :=
    congrArg BitVec.toNat (show be16 (readList b) 0 = 0#8 ++ 8#8 from rfl)
  have hb : b.length = 8 + rest.length := by simp [b, ecsHeader]; omega
  rw [parseOption_eq, hlen, hcode, if_pos (by omega), if_pos rfl]

/-- A whole ECS option of a known family: its address bytes are replaced, its header and the bytes behind the address stay
(R120, R121, R125). -/
theorem optRewrite_ecsHeader (policy : EcsUnknownFamily) (ks : KeySchedule) {f0 f1 sp : Byte} {fam : Family}
    (hf : familyOf (f0 ++ f1) = some fam) (scope : Byte) {addr : List Byte} (haddr : addr.length = (sp.toNat + 7) / 8)
    (hw : addr.length ≤ fam.width) (trailing : List Byte) (hlt : 4 + addr.length + trailing.length < 65536) :
    let olen := 4 + addr.length + trailing.length
    optRewrite policy ks (ecsHeader olen f0 f1 sp scope ++ addr ++ trailing) =
      ⟨ecsHeader olen f0 f1 sp scope ++ rewrittenAddress ks (readList addr) fam 0 addr.length ++ trailing,
        4 + olen, false, 1⟩ := by
  intro olen
  let b := ecsHeader olen f0 f1 sp scope ++ addr ++ trailing
  have hfamily : familyOf (be16 (readList b) (0 + 4)) = some fam := hf
  have hprefix : readList b (0 + 6) = sp := rfl
  have hnb : ceil8 (readList b (0 + 6)).toNat = addr.length := by rw [hprefix, ceil8_eq, haddr]
  have ho : parseOption policy (readList b) b.length 0 = .ecs fam addr.length olen := by
    have hparse := parseOption_ecsHeader policy f0 f1 sp scope (rest := addr ++ trailing) hlt (by simp; omega)
    rw [← List.append_assoc] at hparse
    rw [hparse, parseEcs_of_family hfamily (by omega) (by omega), hnb]
  have haddress : rewrittenAddress ks (readList b) fam (0 + 8) addr.length =
      rewrittenAddress ks (readList addr) fam 0 addr.length :=
    rewrittenAddress_congr_field ks fam fun k hk => by
      rw [Nat.zero_add k, ← readList_append_left hk trailing]
      simp only [b, List.append_assoc]
      exact readList_append_right (ecsHeader olen f0 f1 sp scope) _ k
  rw [optRewrite_of_ecs ho (by simp [b, ecsHeader]; omega), rewriteOption, haddress]
  exact congrArg (RewriteResult.mk · _ _ _)
    (spliceAt_between (rewrittenAddress_length ks (readList addr) 0 hw) (ecsHeader olen f0 f1 sp scope) trailing)

/-- A byte string as the pseudonyms pad it (R121). -/
theorem ite_readList_eq_getD (a : List Byte) (k : Nat) : (if k < a.length then readList a (0 + k) else 0) = a.getD k 0 := by
  rw [Nat.zero_add]
  split
  · rfl
  · next h => exact (List.getD_eq_default _ _ (Nat.le_of_not_lt h)).symm

/-! ### The rewrite in BUF itself (R129, R132) -/

theorem State.readList_bufBytes (s : State) {len i : Nat} (h : i < len) : readList (s.bufBytes 0 len) i = s.bufByte i := by
  simp [readList, State.bufBytes, slice, h]

@[simp] theorem State.bufBytes_length (s : State) (i n : Nat) : (s.bufBytes i n).length = n := slice_length _ _ _

/-- A write inside BUF[0..len) is a splice of the bytes read from there. -/
theorem State.bufBytes_setBufBytes (s : State) {start len : Nat} {r : List Byte} (h : start + r.length ≤ len) :
    (s.setBufBytes start r).bufBytes 0 len = spliceAt (s.bufBytes 0 len) start r := by
  have hlen : (spliceAt (s.bufBytes 0 len) start r).length = len := (spliceAt_length (by simpa using h)).trans (by simp)
  refine eq_of_readList (by rw [hlen, State.bufBytes_length]) fun i hi => ?_
  rw [State.bufBytes_length] at hi
  rw [State.readList_bufBytes _ hi, State.bufByte_setBufBytes, readList_spliceAt (by simp; omega), State.readList_bufBytes _ hi]
  rfl

theorem State.bufByte_eq_ite_readList (s : State) (len a : Nat) :
    s.bufByte a = if a < len then readList (s.bufBytes 0 len) a else s.bufByte a := by
  split
  · next h => exact (s.readList_bufBytes h).symm
  · rfl

/-- The loop in BUF changes nothing but BUF. -/
theorem inPlaceLoop_frame (policy : EcsUnknownFamily) (len fuel : Nat) (s : State) (p n : Nat) :
    (inPlaceLoop policy len fuel s p n).1 = { s with buf := (inPlaceLoop policy len fuel s p n).1.buf } := by
  induction fuel generalizing s p n with
  | zero => rfl
  | succ fuel ih =>
    rw [inPlaceLoop]
    split
    · rfl
    · cases parseOption policy s.bufByte len p with
      | malformed => rfl
      | passThrough olen => exact ih s _ n
      | ecs fam nb olen =>
        exact (ih _ _ _).trans (by simp)

theorem State.parseOption_bufBytes (s : State) (policy : EcsUnknownFamily) (len p : Nat) :
    parseOption policy (readList (s.bufBytes 0 len)) (s.bufBytes 0 len).length p = parseOption policy s.bufByte len p := by
  rw [State.bufBytes_length]
  exact parseOption_congr_inside policy fun i _ hi => s.readList_bufBytes hi

/-- Writing a pseudonym to BUF rewrites the option in the copy of BUF[0..len). -/
theorem State.bufBytes_setBufBytes_rewrittenAddress (s : State) {policy : EcsUnknownFamily} {len p nb olen : Nat} {fam : Family}
    (ho : parseOption policy s.bufByte len p = .ecs fam nb olen) :
    (s.setBufBytes (p + 8) (rewrittenAddress s.ks s.bufByte fam (p + 8) nb)).bufBytes 0 len =
      rewriteOption s.ks (s.bufBytes 0 len) p fam nb := by
  obtain ⟨hend, hfield, hwidth, -⟩ := parseOption_ecs ho
  have hlen := rewrittenAddress_length s.ks s.bufByte (p + 8) hwidth
  rw [rewriteOption, rewrittenAddress_congr_field s.ks fam fun k _ => s.readList_bufBytes (len := len) (by omega)]
  exact s.bufBytes_setBufBytes (by omega)

/-- Where a run on a copy of BUF[0..len) ends, the loop in BUF ends too, and BUF holds the bytes of the run (R132). -/
theorem LoopEnds.inPlaceLoop_eq {policy : EcsUnknownFamily} {ks : KeySchedule} {b : List Byte} {p n len fuel : Nat}
    {r : RewriteResult} {s : State} (h : LoopEnds policy ks b p n r) (hks : s.ks = ks) (hb : s.bufBytes 0 len = b)
    (hfuel : len < p + 4 * fuel) :
    (∀ a, (inPlaceLoop policy len fuel s p n).1.bufByte a = if a < len then readList r.bytes a else s.bufByte a) ∧
      (inPlaceLoop policy len fuel s p n).2 = (r.stop, r.malformed, r.count) := by
  induction h generalizing s fuel with
  | atEnd b n =>
    subst hb
    rw [State.bufBytes_length] at hfuel
    obtain ⟨fuel, rfl⟩ := Nat.exists_eq_add_one_of_ne_zero (show fuel ≠ 0 by omega)
    rw [inPlaceLoop, State.bufBytes_length, if_pos rfl]
    exact ⟨s.bufByte_eq_ite_readList len, rfl⟩
  | malformed n hp ho =>
    subst hb
    rw [State.parseOption_bufBytes] at ho
    rw [State.bufBytes_length] at hp
    obtain ⟨fuel, rfl⟩ := Nat.exists_eq_add_one_of_ne_zero (show fuel ≠ 0 by omega)
    simp only [inPlaceLoop, ho, if_neg (Nat.ne_of_lt hp)]
    exact ⟨s.bufByte_eq_ite_readList len, trivial⟩
  | @passThrough b p n olen r ho _ ih =>
    subst hb
    rw [State.parseOption_bufBytes] at ho
    have hfits := parseOption_passThrough ho
    obtain ⟨fuel, rfl⟩ := Nat.exists_eq_add_one_of_ne_zero (show fuel ≠ 0 by omega)
    simp only [inPlaceLoop, ho, if_neg (show p ≠ len by omega)]
    exact ih hks rfl (by omega)
  | @ecs b p n nb olen fam r ho _ ih =>
    subst hb hks
    rw [State.parseOption_bufBytes] at ho
    obtain ⟨hend, hfield, hwidth, -⟩ := parseOption_ecs ho
    obtain ⟨fuel, rfl⟩ := Nat.exists_eq_add_one_of_ne_zero (show fuel ≠ 0 by omega)
    simp only [inPlaceLoop, ho, if_neg (show p ≠ len by omega)]
    have hlen := rewrittenAddress_length s.ks s.bufByte (p + 8) hwidth
    obtain ⟨hbytes, hreport⟩ := ih (fuel := fuel) (State.setBufBytes_ks _ _ _) (s.bufBytes_setBufBytes_rewrittenAddress ho)
      (by omega)
    refine ⟨fun a => (hbytes a).trans ?_, hreport⟩
    split
    · rfl
    · exact (s.bufByte_setBufBytes _ _ a).trans (if_neg (by omega))

end Sys2Proof.Machine

namespace Sys2Proof.Safety

open Sys2Proof.Machine

/-! ### The headers of the fields (R119) -/

/-- Every field of a parse stands behind a header that the parse checks (R119). -/
theorem exists_cursor_of_mem_ecsFieldsFrom {policy : EcsUnknownFamily} {rd : Nat → Byte} {len fuel p start nb : Nat}
    {fam : Family} (h : (start, nb, fam) ∈ ecsFieldsFrom policy rd len fuel p) :
    ∃ q ∈ optionCursorsFrom policy rd len fuel p, ∃ olen,
      start = q + 8 ∧ parseOption policy rd len q = .ecs fam nb olen := by
  induction fuel generalizing p with
  | zero => cases h
  | succ fuel ih =>
    rw [ecsFieldsFrom] at h
    rw [optionCursorsFrom]
    by_cases hp : p = len
    · rw [if_pos hp] at h; cases h
    rw [if_neg hp] at h ⊢
    cases ho : parseOption policy rd len p with
    | malformed => rw [ho] at h; cases h
    | passThrough olen =>
      rw [ho] at h
      obtain ⟨q, hq, hfield⟩ := ih h
      exact ⟨q, List.mem_cons_of_mem p hq, hfield⟩
    | ecs fam' nb' olen =>
      rw [ho] at h
      rcases List.mem_cons.mp h with e | hrest
      · cases e
        exact ⟨p, List.mem_cons_self, olen, rfl, ho⟩
      · obtain ⟨q, hq, hfield⟩ := ih hrest
        exact ⟨q, List.mem_cons_of_mem p hq, hfield⟩

/-- Where no header that is checked has code 8 there is no field. -/
theorem ecsFields_eq_nil {policy : EcsUnknownFamily} {b : List Byte}
    (h : ∀ p ∈ optionCursors policy b, (be16 (readList b) p).toNat ≠ 8) : ecsFields policy b = [] :=
  List.eq_nil_iff_forall_not_mem.mpr fun _ hfield => by
    obtain ⟨q, hq, _, -, ho⟩ := exists_cursor_of_mem_ecsFieldsFrom hfield
    obtain ⟨-, -, -, -, -, hcode, -⟩ := parseOption_ecs ho
    exact h q hq hcode

end Sys2Proof.Safety
end

section
/-! SUPPORT. The statements about OPT RDATA, settled. -/

namespace Sys2Proof.RdataProofs

open Sys2Proof.Machine Sys2Proof.Safety

/-! ### The command (R129, R132) -/

/-- Settles O15: the report fits its 16 bits, being bounded by LEN. -/
theorem optRewriteResult : Obligations.OptRewriteResult := by
  intro s len
  refine ⟨fun hk => ⟨_, rfl, ?_⟩, fun hk => ?_⟩
  · rw [State.withKey_of_key hk]
    obtain ⟨hbytes, hcount, hstop⟩ := optRewrite_bounds Config.ecsUnknownFamily s.ks (s.rdata len)
    have hlen := len.isLt
    rw [State.rdata_length] at hbytes hstop
    refine ⟨congrArg State.complete (s.rewriteRdata_eq len), Nat.mod_eq_of_lt (by omega), rfl, Nat.mod_eq_of_lt (by omega),
      fun a => ?_⟩
    refine (s.bufByte_setBufBytes 0 _ a).trans ?_
    simp only [hbytes, Nat.zero_le, true_and, Nat.zero_add, Nat.sub_zero]
    rfl
  · exact congrArg Host.Outcome.next (State.withKey_of_no_key hk _)

/-- Settles O39: the run of the loop on the copy is a run of the loop in BUF. -/
theorem inPlaceRewriteIsExact : Obligations.InPlaceRewriteIsExact := by
  intro policy s len
  obtain ⟨hbytes, hreport⟩ := (loopEnds_optRewrite policy s.ks (s.bufBytes 0 len.toNat)).inPlaceLoop_eq
    (fuel := len.toNat / 4 + 1) rfl rfl (by omega)
  obtain ⟨hlen, -⟩ := optRewrite_bounds policy s.ks (s.bufBytes 0 len.toNat)
  refine ⟨inPlaceLoop_frame _ _ _ _ _ _, fun a => (hbytes a).trans ?_, hreport⟩
  rw [State.bufByte_setBufBytes, hlen]
  simp [readList]

/-! ### The whole rewrite (R116, R123, R127) -/

/-- Settles O28. -/
theorem rewriteKeepsLengthAndBounds : Obligations.RewriteKeepsLengthAndBounds := fun policy ks b =>
  have ⟨hbytes, hcount, hstop⟩ := optRewrite_bounds policy ks b
  ⟨hbytes, hstop, hcount⟩

/-- Settles O29: the run of the loop is what any bound that is large enough computes. -/
theorem parserTerminatesWithinItsBound : Obligations.ParserTerminatesWithinItsBound := fun policy ks b _ =>
  (loopEnds_optRewrite policy ks b).optLoop_eq (by omega)

/-- Settles O32, by induction on the run of the loop. -/
theorem stoppingLeavesTheTail : Obligations.StoppingLeavesTheTail := fun policy ks b =>
  have hrun := loopEnds_optRewrite policy ks b
  ⟨fun _ => hrun.readList_from_stop, hrun.malformed_eq_false_iff, hrun.parseOption_stop⟩

/-- Settles O38: the run of the first goes on in the run of the second, which a truncated option stops at once. -/
theorem rewriteGoesOnBehindParsedRdata : Obligations.RewriteGoesOnBehindParsedRdata := by
  intro policy ks front tail hm
  have happend : optRewrite policy ks (front ++ tail) = (optRewrite policy ks tail).behind (optRewrite policy ks front).bytes
      (optRewrite policy ks front).count :=
    ((loopEnds_optRewrite policy ks front).append hm (loopEnds_optRewrite policy ks tail)).optRewrite_eq
  obtain ⟨hlen, -⟩ := optRewrite_bounds policy ks front
  rw [RewriteResult.behind, hlen] at happend
  refine ⟨happend, fun h4 hover => ?_⟩
  have ho : parseOption policy (readList tail) tail.length 0 = .malformed :=
    parseOption_eq_malformed_iff.mpr (.inl (by simp only [Nat.zero_add]; omega))
  rw [happend, optRewrite_of_malformed (by omega) ho]
  rfl

/-! ### The parse of an option (R117 to R124, R131) -/

/-- Settles O31: a field stands behind a header that parses as a well-formed ECS option. -/
theorem fieldsAreEcsAddressBytes : Obligations.FieldsAreEcsAddressBytes := by
  intro policy b start nb fam hfield
  obtain ⟨q, -, olen, rfl, ho⟩ := exists_cursor_of_mem_ecsFieldsFrom hfield
  obtain ⟨hend, hnb, hwidth, hprefix, rfl, hcode, hfamily⟩ := parseOption_ecs ho
  rw [show q + 8 - 8 = q by omega, show q + 8 - 6 = q + 2 by omega, show q + 8 - 4 = q + 4 by omega,
    show q + 8 - 2 = q + 6 by omega]
  refine ⟨Nat.le_add_left 8 q, by omega, hwidth, hcode, hnb, hend, ?_, hprefix.trans (ceil8_eq _)⟩
  cases fam with
  | v4 => exact familyOf_eq_v4_iff.mp hfamily
  | v6 => exact familyOf_eq_v6_iff.mp hfamily

/-- Settles O33: the checks of R122 as the two parsers make them, with the families by their numbers. -/
theorem malformedExactlyAsListed : Obligations.MalformedExactlyAsListed := by
  intro policy rd len p hp code olen family nb
  have hfits : len < p + 4 + olen ↔ len - p < 4 ∨ olen > len - p - 4 := by omega
  rw [parseOption_eq_malformed_iff, parseEcs_eq_malformed_iff, familyOf_eq_none_iff, exists_family_iff, familyOf_eq_v4_iff,
    familyOf_eq_v6_iff, ceil8_eq, hfits, or_assoc, and_assoc]
  rfl

/-- Settles O34: such an option has no family, so only the policy decides. -/
theorem unknownFamilyStopsOrPasses : Obligations.UnknownFamilyStopsOrPasses := by
  refine ⟨fun rd len p hcode h4 hfits h1 h2 => ?_, fun ks f0 f1 sp scope data hlt h1 h2 => ?_⟩
  · have hfamily := familyOf_eq_none_iff.mpr ⟨h1, h2⟩
    rw [parseOption_eq, parseOption_eq, if_pos hfits, if_pos hfits, if_pos hcode, if_pos hcode]
    exact ⟨parseEcs_stop_of_unknown hfamily _, parseEcs_skip_of_unknown hfamily h4⟩
  · intro olen b
    have hlen : b.length = 4 + olen := by simp [b, olen]; omega
    have hfamily : familyOf (be16 (readList b) (0 + 4)) = none := familyOf_eq_none_iff.mpr ⟨h1, h2⟩
    have hparse (policy : EcsUnknownFamily) :
        parseOption policy (readList b) b.length 0 = parseEcs policy (readList b) 0 olen :=
      parseOption_ecsHeader policy f0 f1 sp scope hlt (Nat.le_refl _)
    exact ⟨optRewrite_of_passThrough ((hparse .skip).trans (parseEcs_skip_of_unknown hfamily (Nat.le_add_right 4 _))) hlen,
      optRewrite_of_malformed (by omega) ((hparse .stop).trans (parseEcs_stop_of_unknown hfamily _))⟩

/-- Settles O35. -/
theorem scopePrefixIsNeverRead : Obligations.ScopePrefixIsNeverRead := fun policy _ _ len _ h =>
  parseOption_congr policy len h

/-! ### RDATA of one option, and RDATA with no ECS option (R118, R121, R133) -/

/-- Settles O36: with no field there is nothing to rewrite. -/
theorem noEcsOptionMeansNoChange : Obligations.NoEcsOptionMeansNoChange := by
  refine fun policy ks => ⟨fun b hcodes => ?_, fun c0 c1 data hcode hlt => ?_⟩
  · obtain ⟨hcount, hbytes, -⟩ := AddressProofs.rewriteIsFieldwise policy ks b
    obtain ⟨hlen, -⟩ := optRewrite_bounds policy ks b
    rw [ecsFields_eq_nil hcodes] at hcount hbytes
    exact ⟨eq_of_readList hlen fun i hi => hbytes i (hlen ▸ hi), hcount⟩
  · intro b
    have hlen : b.length = 4 + data.length := by simp [b]; omega
    have holen : (be16 (readList b) (0 + 2)).toNat = data.length := toNat_lengthField hlt
    have hcode' : (be16 (readList b) 0).toNat ≠ 8 := hcode
    refine optRewrite_of_passThrough ?_ hlen
    rw [parseOption_eq, holen, if_pos (by omega), if_neg hcode']

/-- Settles O37, family by family. -/
theorem singleEcsOptionRewrite : Obligations.SingleEcsOptionRewrite := by
  intro policy ks sp scope addr trailing haddr hlt olen header
  refine ⟨fun h4 => ?_, fun h16 => ?_⟩
  · have hrun := optRewrite_ecsHeader policy ks (f0 := 0) (f1 := 1) (fam := .v4) rfl scope haddr h4 trailing hlt
    rw [rewrittenAddress_v4 ks _ 0 h4] at hrun
    simp only [ite_readList_eq_getD] at hrun
    exact hrun
  · have hrun := optRewrite_ecsHeader policy ks (f0 := 0) (f1 := 2) (fam := .v6) rfl scope haddr h16 trailing hlt
    rw [rewrittenAddress_v6] at hrun
    simp only [ite_readList_eq_getD] at hrun
    exact hrun

end Sys2Proof.RdataProofs
end

section
/-! SUPPORT. What the proofs about errors cite: which words decode (R24, R66, R67), the code a command leaves in ERR (R151 to R153),
writes while BUSY = 1 by target (R41, R157), who clears WERR, and that every turn has a next state (R150). -/

namespace Sys2Proof.Machine

/-! ### Legal words decode (R24, R64, R66, R67) -/

/-- Every OP up to 0x5 selects a row. -/
theorem exists_instrOfOp {op : BitVec 4} (h : op ≤ 0x5) (len : BitVec 16) : ∃ i, instrOfOp op len = some i := by
  have hop : op.toNat ≤ 5 := h
  unfold instrOfOp
  interval_cases op.toNat <;> exact ⟨_, rfl⟩

/-- A word with RSVD = 0 and the OP of a row decodes. -/
theorem exists_decode_of_fields {w : Word} (hrsvd : rsvdField w = 0) (hop : opField w ≤ 0x5) : ∃ i, decode w = .ok i := by
  obtain ⟨i, hi⟩ := exists_instrOfOp hop (lenField w)
  exact ⟨i, by simp [decode, hrsvd, hi]⟩

theorem rsvdField_of_rsvdLegal {w : Word} (h : rsvdLegal w = true) : rsvdField w = 0 := by
  have hmask : rsvdField (w &&& 0x0000FFF0) = rsvdField w := by
    rw [rsvdField, BitVec.extractLsb'_and, show (0x0000FFF0 : Word).extractLsb' 4 12 = BitVec.allOnes 12 by decide,
      BitVec.and_allOnes, rsvdField]
  rw [← hmask, show w &&& 0x0000FFF0 = 0 from eq_of_beq h]
  rfl

theorem opField_of_opLegal {w : Word} (h : opLegal w = true) : opField w ≤ 0x5 := by
  have hmask : (w &&& 0x0000000F).toNat = (opField w).toNat := by
    rw [opField, BitVec.extractLsb'_toNat, Nat.shiftRight_zero]
    exact (BitVec.toNat_and w 0x0000000F).trans (Nat.and_two_pow_sub_one_eq_mod w.toNat 4)
  have hle : (w &&& 0x0000000F).toNat ≤ 5 := of_decide_eq_true h
  rwa [hmask] at hle

theorem exists_decode_of_wordLegal {w : Word} (h : wordLegal w = true) : ∃ i, decode w = .ok i := by
  obtain ⟨hrsvd, hop⟩ := Bool.and_eq_true_iff.mp h
  exact exists_decode_of_fields (rsvdField_of_rsvdLegal hrsvd) (opField_of_opLegal hop)

/-- The rows that need a key, by their match values. -/
theorem exists_usesKey_of_row {w : Word}
    (h : w &&& 0x0000FFFF = 2 ∨ w &&& 0x0000FFFF = 3 ∨ w &&& 0x0000FFFF = 4 ∨ w &&& 0x0000FFFF = 5) :
    ∃ i, decode w = .ok i ∧ i.usesKey = true := by
  rcases h with h | h | h | h
  · exact ⟨.encryptBlock (lenField w), decode_eq_ok_iff_row.mpr ⟨h, rfl⟩, rfl⟩
  · exact ⟨.anonV4 (lenField w), decode_eq_ok_iff_row.mpr ⟨h, rfl⟩, rfl⟩
  · exact ⟨.anonV6 (lenField w), decode_eq_ok_iff_row.mpr ⟨h, rfl⟩, rfl⟩
  · exact ⟨.optRewrite (lenField w), decode_eq_ok_iff_row.mpr ⟨h, rfl⟩, rfl⟩

/-! ### The code of a command (R151 to R153, R168) -/

theorem exec_of_no_key {i : Instr} {s : State} (hu : i.usesKey = true) (hk : s.keyValid = false) :
    exec i s = .next (s.raise .noKey) := by
  cases i with
  | nop | keyLoad => cases hu
  | encryptBlock | anonV4 | anonV6 | optRewrite => exact congrArg Host.Outcome.next (State.withKey_of_no_key hk _)

theorem usesKey_of_writesDout {i : Instr} (h : i.writesDout = true) : i.usesKey = true := by
  cases i with
  | nop | keyLoad | optRewrite => cases h
  | encryptBlock | anonV4 | anonV6 => rfl

/-- The rows that need a key are those from OP = 0x2 on (R64). -/
theorem two_le_opOf_of_usesKey {i : Instr} (h : i.usesKey = true) : 0x2 ≤ opOf i := by
  cases i with
  | nop | keyLoad => cases h
  | encryptBlock | anonV4 | anonV6 | optRewrite => simp [opOf]

theorem opOf_ne_one_of_usesKey {i : Instr} (h : i.usesKey = true) : opOf i ≠ 0x1 := fun hone =>
  absurd (hone ▸ two_le_opOf_of_usesKey h) (by decide)

/-- The code a command leaves in ERR: NO_KEY is checked before INVALID_KEY_LENGTH (R158). -/
theorem CommandResult.err_eq {i : Instr} {s t : State} (h : CommandResult i s t) :
    t.err =
      if 0x2 ≤ opOf i ∧ s.keyValid = false then 0x2
      else if opOf i = 0x1 ∧ i.len ≠ 16 then 0x1
      else 0x0 := by
  cases h with
  | nop => rfl
  | keyInstalled => rfl
  | keyDropped hlen => rw [if_neg (by simp [opOf]), if_pos ⟨rfl, hlen⟩]; rfl
  | noKey hi hk => rw [if_pos ⟨two_le_opOf_of_usesKey hi, hk⟩]; rfl
  | doutWritten hi hk =>
    have hop := opOf_ne_one_of_usesKey (usesKey_of_writesDout hi)
    rw [if_neg (by simp [hk]), if_neg fun h => hop h.1]; rfl
  | rdataRewritten len hk => simp [hk, opOf]

/-- With a key only a KEY_LOAD can fail. -/
theorem CommandResult.err_eq_zero {i : Instr} {s t : State} (h : CommandResult i s t) (hk : s.keyValid = true)
    (hi : i.rowMatch ≠ 1) : t.err = 0 := by
  cases h with
  | nop | keyInstalled | doutWritten | rdataRewritten => rfl
  | keyDropped => exact absurd rfl hi
  | noKey _ hno => rw [hk] at hno; cases hno

/-! ### Writes while BUSY = 1 (R41, R157, R158) -/

/-- The targets that a host write can change while BUSY = 0 (R41). -/
def Target.writable : Target → Bool
  | .cmd | .din _ | .bufWord _ => true
  | .status | .rdstat | .ecscnt | .dout _ => false

/-- They are CMD, DIN and BUF by their addresses (R23). -/
theorem Target.writable_iff (t : Target) :
    t.writable = true ↔
      t.addr.toNat = 0 ∨ (0x10 ≤ t.addr.toNat ∧ t.addr.toNat < 0x20) ∨ 0x10000 ≤ t.addr.toNat := by
  cases t with
  | cmd | status | rdstat | ecscnt => decide
  | din k => rw [Target.toNat_addr_din]; simp [Target.writable]; omega
  | dout k => rw [Target.toNat_addr_dout]; simp [Target.writable]; omega
  | bufWord j => rw [Target.toNat_addr_bufWord]; simp [Target.writable]

/-- While BUSY = 1 a write is dropped with WERR set, or is to a read-only register and ignored. -/
theorem State.writeTarget_busy_eq {s : State} (h : s.busy = true) (v : Word) (t : Target) :
    s.writeTarget v t = if t.writable then s.dropWrite else s := by
  cases t <;> simp [State.writeTarget, Target.writable, h]

/-! ### Who clears WERR (R157, R160) -/

theorem CommandResult.werr {i : Instr} {s t : State} (h : CommandResult i s t) : t.werr = s.werr := by
  cases h <;> simp [State.rewriteRdata]

theorem coreTurn_werr {s t : State} (h : coreTurn s = .next t) : t.werr = s.werr := by
  by_contra hne
  obtain ⟨-, i, -, hr⟩ := command_of_coreTurn_ne State.werr (fun _ _ => rfl) h hne
  exact hne hr.werr

/-- An access that clears WERR is a write to CMD with BUSY = 0: the acceptance of a command (R36). -/
theorem State.cmd_write_of_hostAccess_clears_werr {s : State} {a : BusAccess} (hset : s.werr = true)
    (hclear : (s.hostAccess a).werr = false) : s.busy = false ∧ ∃ v, a = .write 0x00000 v := by
  have unchanged {u : State} (hu : u.werr = s.werr) : u.werr ≠ false := by simp [hu, hset]
  rcases hostAccess_by_target a with e | ⟨t, rfl⟩ | ⟨v, t, rfl⟩
  · rw [e] at hclear; exact absurd hclear (unchanged rfl)
  · rw [State.hostAccess_read_addr] at hclear
    rcases s.readTarget_state t with e | e <;> rw [e] at hclear <;> exact absurd hclear (unchanged rfl)
  · rw [State.hostAccess_write_addr, State.respond_werr] at hclear
    rcases s.writeTarget_cases v t with e | e | ⟨hb, rfl, -⟩ | ⟨-, k, -, e⟩ | ⟨-, j, -, e⟩
    · rw [e] at hclear; exact absurd hclear (unchanged rfl)
    · rw [e] at hclear; cases hclear
    · exact ⟨hb, v, rfl⟩
    · rw [e] at hclear; exact absurd hclear (unchanged rfl)
    · rw [e] at hclear; exact absurd hclear (unchanged (s.setBufWord_werr j.val v))

/-! ### Every turn has a next state (R150) -/

theorem coreTurn_next (s : State) : ∃ t, coreTurn s = .next t := by
  cases hb : s.busy
  · exact ⟨s, coreTurn_of_idle hb⟩
  · obtain ⟨t, ht, -⟩ := coreStep_next s
    exact ⟨t, (coreTurn_of_busy hb).trans ht⟩

theorem step_next (s : State) : ∃ t, step s = .next t := by
  rcases step_cases s with ⟨-, e⟩ | ⟨rest, -, e⟩ | ⟨a, rest, -, e⟩ | ⟨rest, -, e⟩
  · rw [e]; exact coreTurn_next s
  · rw [e]; exact coreTurn_next _
  · exact ⟨_, e⟩
  · exact ⟨_, e⟩

end Sys2Proof.Machine
end

section
/-! SUPPORT. The statements about errors, settled. -/

namespace Sys2Proof.ErrorProofs

open Sys2Proof.Machine Sys2Proof.Safety

/-- Settles O8. -/
theorem noStepStops : Obligations.NoStepStops := by
  intro s hstops
  obtain ⟨t, ht⟩ := step_next s
  exact hstops t ht

/-- Settles O11. -/
theorem keyLoadResult : Obligations.KeyLoadResult := by
  intro s len
  rcases execKeyLoad_cases len s with ⟨rfl, e⟩ | ⟨hlen, e⟩
  · exact e
  · have hne : len.toNat ≠ 16 := fun h => hlen (BitVec.eq_of_toNat_eq h)
    rw [if_neg hne]; exact e

/-- Settles O16: a word of these rows decodes to an instruction that the guard of R37 stops. -/
theorem keyUsingCommandsNeedAKey : Obligations.KeyUsingCommandsNeedAKey := by
  intro s hk hrow
  obtain ⟨i, hi, hu⟩ := exists_usesKey_of_row hrow
  exact (coreStep_of_ok hi).trans (exec_of_no_key hu hk)

/-- Settles O19: a word that passes the first check decodes, and its fields are those of its instruction; and an address that
passes the first two is that of a target. -/
theorem firstErrorWins : Obligations.FirstErrorWins := by
  refine ⟨fun s => ?_, fun s addr v hb => ?_⟩
  · by_cases hbad : s.cur.extractLsb' 4 12 ≠ 0 ∨ 0x5 < s.cur.extractLsb' 0 4
    · exact ⟨_, EncodingProofs.illegalWordRaisesIllegalOp s hbad, (if_pos hbad).symm⟩
    · obtain ⟨hrsvd, hop⟩ := not_or.mp hbad
      obtain ⟨i, hi⟩ := exists_decode_of_fields (not_not.mp hrsvd) (BitVec.not_lt.mp hop)
      obtain ⟨t, ht, hr⟩ := exec_result i s
      obtain ⟨-, hopOf, hlen⟩ := fields_of_decode hi
      refine ⟨t, (coreStep_of_ok hi).trans ht, ?_⟩
      rw [if_neg hbad, hr.err_eq, hopOf, hlen]
      rfl
  · by_cases hal : addr.toNat % 4 = 0
    · rw [if_neg (not_not.mpr hal)]
      by_cases hres : 0x30 ≤ addr.toNat ∧ addr.toNat < 0x10000
      · obtain ⟨hlo, hhi⟩ := hres
        rw [if_pos ⟨hlo, hhi⟩]
        exact (State.hostAccess_refused (decodeAddr_reserved hal hlo hhi) s v).2
      · obtain ⟨t, rfl⟩ := exists_target_of_aligned hal (by omega)
        rw [if_neg hres, State.hostAccess_write_addr, State.writeTarget_busy_eq hb]
        simp only [t.writable_iff]
        split <;> rfl
    · rw [if_pos hal]
      exact (State.hostAccess_refused (decodeAddr_misaligned hal) s v).2

/-- Settles O20. -/
theorem commandsCannotFailWithAKey : Obligations.CommandsCannotFailWithAKey := by
  intro s w hk hlegal hrow
  obtain ⟨i, hi⟩ := exists_decode_of_wordLegal hlegal
  obtain ⟨t, ht, hr⟩ := exec_result i (s.accept w)
  exact ⟨t, (coreStep_of_ok (s := s.accept w) hi).trans ht, hr.err_eq_zero hk ((row_of_decode hi).1 ▸ hrow), hr.busy⟩

/-- Settles O53, by whose turn it is: the core never writes WERR, and the host clears it only by a command. -/
theorem werrIsSticky : Obligations.WerrIsSticky := by
  intro s t hset hs hclear
  rcases step_result hs with ⟨-, rest, hc⟩ | ⟨a, rest, hturn, rfl⟩ | ⟨rest, hturn, -⟩
  · exact absurd ((coreTurn_werr hc).trans hset) (by simp [hclear])
  · obtain ⟨hb, v, rfl⟩ := State.cmd_write_of_hostAccess_clears_werr (by exact hset) hclear
    exact .inl ⟨v, rest, hturn, hb⟩
  · exact .inr ⟨rest, hturn⟩

end Sys2Proof.ErrorProofs
end

section
/-! SUPPORT. Which words a block without a key completes without an error (R153, R182). -/

namespace Sys2Proof.Machine

/-- Without a key only NOP and KEY_LOAD 16 end with ERR = 0 (R75, R76, R152, R153). -/
theorem CommandResult.err_eq_zero_iff_of_no_key {i : Instr} {s t : State} (h : CommandResult i s t)
    (hk : s.keyValid = false) : t.err = 0 ↔ (∃ len, i = .nop len) ∨ i = .keyLoad 16 := by
  cases h with
  | nop | keyInstalled => simp [State.complete]
  | keyDropped hlen => simpa [ErrCode.code] using hlen
  | noKey hi =>
    cases i with
    | nop | keyLoad => cases hi
    | encryptBlock | anonV4 | anonV6 | optRewrite => simp [ErrCode.code]
  | doutWritten _ hkey | rdataRewritten _ hkey => rw [hk] at hkey; cases hkey

/-- The words of NOP's row, and the one word of KEY_LOAD 16, by what they decode to (R64). -/
theorem nop_row_or_keyLoad_word_iff {w : Word} :
    w &&& 0x0000FFFF = 0 ∨ w = 0x00100001 ↔ ∃ i, decode w = .ok i ∧ ((∃ len, i = .nop len) ∨ i = .keyLoad 16) := by
  constructor
  · rintro (hrow | rfl)
    · exact ⟨.nop (lenField w), decode_eq_ok_iff_row.mpr ⟨hrow, rfl⟩, .inl ⟨_, rfl⟩⟩
    · exact ⟨.keyLoad 16, decode_encode (.keyLoad 16), .inr rfl⟩
  · rintro ⟨i, hi, ⟨len, rfl⟩ | rfl⟩
    · exact .inl (row_of_decode hi).1
    · exact .inr (encode_of_decode hi).symm

/-- Without a key the core step ends with ERR = 0 exactly for the words of NOP and KEY_LOAD 16: any other legal word gets
NO_KEY or INVALID_KEY_LENGTH, and a word that decodes to nothing ILLEGAL_OP. -/
theorem coreStep_err_eq_zero_iff_of_no_key {s t : State} (hk : s.keyValid = false) (h : coreStep s = .next t) :
    t.err = 0 ↔ s.cur &&& 0x0000FFFF = 0 ∨ s.cur = 0x00100001 := by
  rw [nop_row_or_keyLoad_word_iff]
  rcases coreStep_cases s with ⟨i, hi, e⟩ | ⟨r, hr, e⟩ <;> rw [e] at h
  · rw [(commandResult_of_exec h).err_eq_zero_iff_of_no_key hk]
    simp [hi]
  · cases h
    simp [hr, ErrCode.code]

end Sys2Proof.Machine
end

section
/-! SUPPORT. The statement about the block right after reset, settled. -/

namespace Sys2Proof.ResetProofs

open Sys2Proof.Machine

/-- Settles O21: a reset event leaves no key (R40), and acceptance brings none. -/
theorem onlyNopAndKeyLoadAfterReset : Obligations.OnlyNopAndKeyLoadAfterReset := by
  intro s w
  obtain ⟨t, ht, -⟩ := coreStep_next (s.resetEvent.accept w)
  exact ⟨t, ht, coreStep_err_eq_zero_iff_of_no_key rfl ht⟩

end Sys2Proof.ResetProofs
end
